-- ==== Sys2Proof/Word.lean ====
section
/-! DEFINITION. The words of the request interface: the 64-bit request (R37), the 56-bit response data (R38),
one header byte (R26). -/

namespace Sys2Proof

/-- A request word `req` (R37). -/
abbrev Word := BitVec 64

/-- The data of a response, `rsp_data` (R38). -/
abbrev RspData := BitVec 56

/-- One byte of the header (R26). -/
abbrev Byte := BitVec 8

end Sys2Proof
end

