-- ==== Sys2Proof/Machine/Operands.lean ====
section
/-! DEFINITION. The operand forms: the extractor's range and its primitive (R52), the identifiers of the external
enumerations (R43) and the fallible lookup (R41, R59, R61, R63). -/

namespace Sys2Proof.Machine

/-- The extractor's contract for a `W`-bit operand (R52, R58). -/
abbrev InContract (W s e : Nat) : Prop := 1 ≤ s ∧ s ≤ W ∧ 1 ≤ e ∧ e ≤ W

/-- `Extract(W, v, s, e)` (R52), the three steps in `W`-bit arithmetic. It asks for a proof of the contract, so it has
no value outside it (R58). A reversed range is inside and gives 0 (R57; UNVERIFIED of the hardware, log entry 16). -/
def extract {W : Nat} (v : BitVec W) (s e : Nat) (_ : InContract W s e) : BitVec W :=
  let a := v <<< (s - 1)
  let b := a >>> (s - 1)
  b >>> (W - e)

/-- The audio profiles of the table (R43, R59). -/
inductive Profile where
  | main
  | lc
  | ssr
  | ltp
  deriving DecidableEq, Repr

/-- `prof_id` of a profile (R43). -/
def profileId : Profile → Nat
  | .main => 1
  | .lc => 2
  | .ssr => 3
  | .ltp => 4

/-- The channel layouts of the table (R43, R63). -/
inductive Layout where
  | mono
  | stereo
  | three
  | four
  | five
  | fiveOne
  | sevenOne
  deriving DecidableEq, Repr

/-- `chan_id` of a layout (R43). -/
def layoutId : Layout → Nat
  | .mono => 1
  | .stereo => 2
  | .three => 3
  | .four => 4
  | .five => 5
  | .fiveOne => 6
  | .sevenOne => 7

/-- A fallible lookup: FAIL when the provider did not resolve the key, in which case the key is not read (R43), and FAIL
for a key outside the table (R59, R61, R63). -/
def lookupCode {w : Nat} (table : List (Nat × BitVec w)) (resolved : Bool) (key : Nat) : Option (BitVec w) :=
  match resolved with
  | true => table.lookup key
  | false => none

end Sys2Proof.Machine
end

