-- ==== Sys2Proof/Machine/Flags.lean ====
section
/-! DEFINITION. The one status flag, `rsp_ok` (R17), and the response data that goes with it (R22, R51): what an
operation's result, or its FAIL (`none`), writes into the response registers. -/

namespace Sys2Proof.Machine

/-- `rsp_ok`: 1 when the request produced its result, 0 for the absent result (R17). -/
def okFlag {w : Nat} (result : Option (BitVec w)) : Bool := result.isSome

/-- `rsp_data`: the result in the low bits and zeros above (R51); all zeros on failure (R22). -/
def resultData {w : Nat} (result : Option (BitVec w)) : RspData :=
  match result with
  | some r => r.setWidth 56
  | none => 0

end Sys2Proof.Machine
end

