-- ==== Sys2Proof/Syntax.lean ====
section
/-! DEFINITION. The seven operations of R39, one constructor per row of spec/opcode_table.json, each with the
operands R48 hands it. Numbers the spec treats as numbers are `Nat` (positions, identifiers, frequencies, lengths:
R10, R42, R43; log entry 14); the extractor's operand is a bit vector of its width. Format H fields that an operation does not
read are no operands of it (R46, R48). -/

namespace Sys2Proof

/-- An operation with its decoded operands. -/
inductive Instr where
  /-- EXT8 (R53): operand, first and last position. -/
  | ext8 (value : BitVec 8) (start stop : Nat)
  /-- EXT16 (R54): operand, first and last position. -/
  | ext16 (value : BitVec 16) (start stop : Nat)
  /-- MAPAOT (R60): `prof_ok`, `prof_id`. -/
  | mapaot (profOk : Bool) (profId : Nat)
  /-- MAPSFI (R62): `rate_ok`, `rate_hz`. -/
  | mapsfi (rateOk : Bool) (rateHz : Nat)
  /-- MAPCH (R64): `chan_ok`, `chan_id`. -/
  | mapch (chanOk : Bool) (chanId : Nat)
  /-- FLEN (R67): `payload_len`. -/
  | flen (payloadLen : Nat)
  /-- BUILD (R72): every Format H field. -/
  | build (profOk : Bool) (profId : Nat) (rateOk : Bool) (rateHz : Nat) (chanOk : Bool) (chanId payloadLen : Nat)
  deriving DecidableEq, Repr

end Sys2Proof
end

