-- ==== Sys2Proof/WellFormed.lean ====
section
/-! DEFINITION. An instruction is well formed when every number fits its field of Format X or Format H (R40, R41);
these are the values the assembler of R49 accepts. -/

namespace Sys2Proof

/-- Every operand fits its field: start and end below 2^8 (R40), prof_id below 2^5, rate_hz below 2^18, chan_id below
2^4, payload_len below 2^30 (R41). -/
def Instr.wellFormed : Instr → Bool
  | .ext8 _ s e => decide (s < 2 ^ 8) && decide (e < 2 ^ 8)
  | .ext16 _ s e => decide (s < 2 ^ 8) && decide (e < 2 ^ 8)
  | .mapaot _ p => decide (p < 2 ^ 5)
  | .mapsfi _ hz => decide (hz < 2 ^ 18)
  | .mapch _ c => decide (c < 2 ^ 4)
  | .flen l => decide (l < 2 ^ 30)
  | .build _ p _ hz _ c l =>
    decide (p < 2 ^ 5) && decide (hz < 2 ^ 18) && decide (c < 2 ^ 4) && decide (l < 2 ^ 30)

end Sys2Proof
end

