-- ==== Sys2Proof/Decode.lean ====
section
/-! DEFINITION. The decoder of R48, total on 64-bit words, and the encoder of Formats X and H (R40, R41). -/

namespace Sys2Proof

/-- `req[lo+n-1 : lo]` as a number: the `n` bits of the word from LSB-0 bit `lo` up (R7). -/
def field (req : Word) (lo n : Nat) : Nat := (req.extractLsb' lo n).toNat

/-- One bit of the word (R7). -/
def flag (req : Word) (i : Nat) : Bool := req.getLsbD i

/-- Why the decoder refuses a word (R48), by name. -/
inductive DecodeError where
  /-- `op` is 0x0 or 0x8-0xF (R44). -/
  | illegalOp
  /-- A reserved bit of Format X is set (R45). -/
  | reservedNonzero
  deriving DecidableEq, Repr

/-- EXT8 of Format X (R48, first arm): the reserved bits are checked before the operands are read. -/
def decodeExt8 (req : Word) : Except DecodeError Instr :=
  if field req 32 28 ≠ 0 ∨ field req 8 8 ≠ 0 then .error .reservedNonzero
  else .ok (.ext8 (req.extractLsb' 0 8) (field req 24 8) (field req 16 8))

/-- EXT16 of Format X (R48, second arm). -/
def decodeExt16 (req : Word) : Except DecodeError Instr :=
  if field req 32 28 ≠ 0 then .error .reservedNonzero
  else .ok (.ext16 (req.extractLsb' 0 16) (field req 24 8) (field req 16 8))

/-- The decoder (R48). A word is taken whole (R32, R37); the last arm refuses every op not in the map (R44). -/
def decode (req : Word) : Except DecodeError Instr :=
  match field req 60 4 with
  | 1 => decodeExt8 req
  | 2 => decodeExt16 req
  | 3 => .ok (.mapaot (flag req 59) (field req 54 5))
  | 4 => .ok (.mapsfi (flag req 53) (field req 35 18))
  | 5 => .ok (.mapch (flag req 34) (field req 30 4))
  | 6 => .ok (.flen (field req 0 30))
  | 7 => .ok (.build (flag req 59) (field req 54 5) (flag req 53) (field req 35 18)
            (flag req 34) (field req 30 4) (field req 0 30))
  | _ => .error .illegalOp

/-- The operation field of each instruction (R39). -/
def opField : Instr → Nat
  | .ext8 .. => 0x1
  | .ext16 .. => 0x2
  | .mapaot .. => 0x3
  | .mapsfi .. => 0x4
  | .mapch .. => 0x5
  | .flen .. => 0x6
  | .build .. => 0x7

/-- A Format X word (R40), reserved bits zero. -/
def formatX (op start stop value : Nat) : Word :=
  BitVec.ofNat 64 (op * 2 ^ 60 + start * 2 ^ 24 + stop * 2 ^ 16 + value)

/-- A Format H word (R41). -/
def formatH (op : Nat) (profOk : Bool) (profId : Nat) (rateOk : Bool) (rateHz : Nat)
    (chanOk : Bool) (chanId payloadLen : Nat) : Word :=
  BitVec.ofNat 64 (op * 2 ^ 60 + profOk.toNat * 2 ^ 59 + profId * 2 ^ 54 + rateOk.toNat * 2 ^ 53 + rateHz * 2 ^ 35
    + chanOk.toNat * 2 ^ 34 + chanId * 2 ^ 30 + payloadLen)

/-- The encoder: the word of an instruction, with the fields it does not read zero as the assembler writes them
(R40, R41, R46, R49). It is meant for well-formed instructions. -/
def encode (i : Instr) : Word :=
  match i with
  | .ext8 v s e => formatX (opField i) s e v.toNat
  | .ext16 v s e => formatX (opField i) s e v.toNat
  | .mapaot ok p => formatH (opField i) ok p false 0 false 0 0
  | .mapsfi ok hz => formatH (opField i) false 0 ok hz false 0 0
  | .mapch ok c => formatH (opField i) false 0 false 0 ok c 0
  | .flen l => formatH (opField i) false 0 false 0 false 0 l
  | .build po p ro hz co c l => formatH (opField i) po p ro hz co c l

/-- The request word whose bits spec/opcode_table.json numbers as `w`: one word of 64 bits, bit 0 the least
significant, every bit from `nbits` up zero (log entry 11). -/
def tableWord (nbits w : Nat) : Word := BitVec.ofNat 64 (w % 2 ^ nbits)

/-- What the decoder reads from a table word, or none where it refuses. -/
def decodeTableWord (nbits w : Nat) : Option Instr := (decode (tableWord nbits w)).toOption

end Sys2Proof
end

