-- ==== Sys2Proof/Machine/State.lean ====
section
/-! DEFINITION. The state of the block as R13 lists it (`rsp_valid`, `rsp_ok`, `rsp_data`, `FAULT`), the request in
flight (R11, R99, R103) and the turns of the host still to come (R12), as plain data; the reasons a step stops; and
the state after reset (R24). -/

namespace Sys2Proof.Machine

/-- What the host may read of the response interface (R20). -/
inductive RspField where
  | valid
  | ok
  | data
  deriving DecidableEq, Repr

/-- The fault codes of R83. -/
inductive FaultCode where
  | illegalOp
  | reservedNonzero
  | extractRange
  | unwrittenRead
  deriving DecidableEq, Repr

/-- What `FAULT` holds: one constructor per code of R83, with what R83 records beside the code. -/
inductive FaultRecord where
  /-- `ILLEGAL_OP` with the request word (R84). -/
  | illegalOp (req : Word)
  /-- `RESERVED_NONZERO` with the request word (R85). -/
  | reservedNonzero (req : Word)
  /-- `EXTRACT_RANGE` with the request word, s, e and W (R86). -/
  | extractRange (req : Word) (s e width : Nat)
  /-- `UNWRITTEN_READ` with the field read (R25). -/
  | unwrittenRead (f : RspField)
  deriving DecidableEq, Repr

/-- Whose move comes next (R12, R103): the host presents a request, reads a response register or resets the block,
or the block moves. The block completes the request in flight, or idles where there is none. -/
inductive Turn where
  | present (req : Word)
  | read (f : RspField)
  | reset
  | block
  deriving DecidableEq, Repr

/-- Everything the model holds. -/
structure State where
  /-- `rsp_valid` (R13, R21). -/
  rspValid : Bool
  /-- `rsp_ok` (R13, R17). The host reads it only through `readRspOk` (R25). -/
  rspOk : Bool
  /-- `rsp_data` (R13, R22). The host reads it only through `readRspData` (R25). -/
  rspData : RspData
  /-- `FAULT` (R13, R23): the first fault raised in this run, or none. -/
  fault : Option FaultRecord
  /-- The current request word: accepted and not yet completed (R11, R99, R103). DESIGN CHOICE, log entry 3. -/
  inFlight : Option Word
  /-- The turns still to come, the next one first; an empty schedule leaves every turn to the block. An input of
  the model and no state of the block (R12). DESIGN CHOICE, log entry 2. -/
  schedule : List Turn
  deriving DecidableEq, Repr

/-- Why the machine stops with a fault. -/
inductive Fault where
  /-- Raised by `fetch` (so by every step but a reset) once `FAULT` holds a record: the model records the code and stops
  (R82), and the block takes no further step (R23, R93, D16, D29). Safe: the hardware may go on to answer later requests, the model proves nothing of it. -/
  | halted (r : FaultRecord)
  deriving DecidableEq, Repr

/-- Why a step has no meaning. -/
inductive Refusal where
  /-- Reserved for an arm of `exec` that has no meaning yet; no arm raises it. Safe. -/
  | notModelled (mnemonic : String)
  /-- Raised by `fetch` when the host presents a request while another is in flight, which R103 forbids: the model
  has no move for it (DESIGN CHOICE, log entry 4; B1 of 93_implementation_defined.md). Unsafe in B1's sense: a hang or a
  corrupted response that the hardware might show is absent from the model. -/
  | requestWhileInFlight (req : Word)
  deriving DecidableEq, Repr

/-- The outcome of a step of this machine. -/
abbrev StepOutcome := Host.Outcome State Fault Refusal

/-- The machine right after reset (R24): `rsp_valid` is 0 and `FAULT` none, no request is in flight (R99) and the host
has chosen nothing yet. `rsp_ok` and `rsp_data` are UNSPECIFIED in R24; DESIGN CHOICE 0, log entry 5. -/
def State.reset : State where
  rspValid := false
  rspOk := false
  rspData := 0
  fault := none
  inFlight := none
  schedule := []

end Sys2Proof.Machine
end

