-- ==== Sys2Proof/Machine/Ops.lean ====
section
/-! DEFINITION. The named operations on the response interface: completing a request (R11), raising a fault (R11,
R23, R89; the block has no other exception and no return from one, R93, R94), the host's reads (R20, R25), accepting a
request (R103) and reset (R99). -/

namespace Sys2Proof.Machine

/-- `respond(ok, data)` (R11): the response registers are written in one step (R33). -/
def respond (ok : Bool) (data : RspData) (s : State) : State :=
  { s with rspValid := true, rspOk := ok, rspData := data }

/-- Respond with an operation's result, or with the absent result (R17, R22, R51). -/
def respondResult {w : Nat} (result : Option (BitVec w)) (s : State) : State :=
  respond (okFlag result) (resultData result) s

/-- `raise Fault(code)` (R11): the first fault of a run is recorded and later ones are not (R23); the response
registers keep their values (R89; UNVERIFIED of the hardware, log entry 6). -/
def raiseFault (r : FaultRecord) (s : State) : State :=
  match s.fault with
  | none => { s with fault := some r }
  | some _ => s

/-- The code of a fault record (R83). -/
def FaultRecord.code : FaultRecord → FaultCode
  | .illegalOp _ => .illegalOp
  | .reservedNonzero _ => .reservedNonzero
  | .extractRange .. => .extractRange
  | .unwrittenRead _ => .unwrittenRead

/-- The number of a fault code (R83). -/
def FaultCode.number : FaultCode → Nat
  | .illegalOp => 1
  | .reservedNonzero => 2
  | .extractRange => 3
  | .unwrittenRead => 4

/-- The fault that a decoder's refusal raises, with the request word (R83, R84, R85). -/
def decodeFault (req : Word) : DecodeError → FaultRecord
  | .illegalOp => .illegalOp req
  | .reservedNonzero => .reservedNonzero req

/-- What a read of `rsp_valid` gives; always allowed (R20). -/
def readRspValid (s : State) : Bool := s.rspValid

/-- What a read of `rsp_ok` gives; no value before the first response (R25). -/
def readRspOk (s : State) : Option Bool := if s.rspValid then some s.rspOk else none

/-- What a read of `rsp_data` gives; no value before the first response (R25). -/
def readRspData (s : State) : Option RspData := if s.rspValid then some s.rspData else none

/-- The effect of a host read: none (R20), but a read of `rsp_ok` or `rsp_data` before the first response raises
UNWRITTEN_READ (R25). -/
def hostRead (f : RspField) (s : State) : State :=
  match f with
  | .valid => s
  | .ok => if s.rspValid then s else raiseFault (.unwrittenRead .ok) s
  | .data => if s.rspValid then s else raiseFault (.unwrittenRead .data) s

/-- The host presents a request and the block accepts it (R103). With another in flight there is no such move. -/
def acceptRequest (req : Word) (s : State) : StepOutcome :=
  match s.inFlight with
  | none => .next { s with inFlight := some req }
  | some _ => .refused (.requestWhileInFlight req)

/-- Reset (R99): the interface state takes the values of R24, a request in flight is discarded and a new run begins,
with the host's turns still to come. -/
def applyReset (s : State) : State := { State.reset with schedule := s.schedule }

end Sys2Proof.Machine
end

