-- ==== Sys2Proof/Machine/Extract.lean ====
section
/-! DEFINITION. The bit-field extractor's two operations, EXT8 and EXT16 (R53, R54). -/

namespace Sys2Proof.Machine

/-- The shared meaning: inside the contract the extract result with `rsp_ok` 1, outside it EXTRACT_RANGE with the
request word, s, e and W (R58, R83, R86). -/
def extractRequest {W : Nat} (v : BitVec W) (s e : Nat) (req : Word) (st : State) : State :=
  if h : InContract W s e then respond true ((extract v s e h).setWidth 56) st
  else raiseFault (.extractRange req s e W) st

/-- EXT8 (R53). -/
def execExt8 (v : BitVec 8) (s e : Nat) (st : State) : StepOutcome :=
  .next (extractRequest v s e (encode (.ext8 v s e)) st)

/-- EXT16 (R54). -/
def execExt16 (v : BitVec 16) (s e : Nat) (st : State) : StepOutcome :=
  .next (extractRequest v s e (encode (.ext16 v s e)) st)

end Sys2Proof.Machine
end

