-- ==== Sys2Proof/Config.lean ====
section
/-! DEFINITION. The implementation parameters of R6. What R6 marks OPEN and a request's result depends on is an
opaque constant; the others are numbers the spec fixes. `LATENCY` is no constant here: it is the number of turns
the schedule of `State` puts between accepting and completing a request (log entry 1). -/

namespace Sys2Proof

/-- The two policies for a frame length above 8191 (R6, R66, D7). -/
inductive FlOverflow where
  | reject
  | truncate
  deriving DecidableEq, Repr, Inhabited

/-- `FL_OVERFLOW` (R6): OPEN, fixed when the block is built (R18). It has no body, so a theorem holds under both
policies. DESIGN CHOICE, log entry 8. -/
opaque Config.flOverflow : FlOverflow

/-- `HDR_BYTES` (R6): the size of the CRC-absent header. -/
abbrev Config.hdrBytes : Nat := 7

/-- `HDR_SIZE_ADD` (R6, R68): the header's size, added to the payload length. -/
abbrev Config.hdrSizeAdd : Nat := Config.hdrBytes

/-- The largest frame length the 13-bit field holds (`FL_BITS`, R6). -/
abbrev Config.flMax : Nat := 8191

end Sys2Proof
end

