-- ==== Sys2Proof/Machine/FrameLength.lean ====
section
/-! DEFINITION. The frame-length computer and the operation FLEN (R66-R68). -/

namespace Sys2Proof.Machine

/-- `FrameLen(L)` under a given policy (R66): the sum is exact, and only the check narrows it. -/
def frameLenWith (policy : FlOverflow) (L : Nat) : Option (BitVec 13) :=
  let f := Config.hdrSizeAdd + L
  if f ≤ Config.flMax then some (BitVec.ofNat 13 f)
  else
    match policy with
    | .reject => none
    | .truncate => some (BitVec.ofNat 13 f)

/-- The policy this block was built with (R6, R18). -/
def overflowPolicy : FlOverflow := Config.flOverflow

/-- `FrameLen(L)` (R66) under the block's own `FL_OVERFLOW`. -/
def frameLen (L : Nat) : Option (BitVec 13) := frameLenWith overflowPolicy L

/-- FLEN (R67). -/
def execFlen (L : Nat) (st : State) : StepOutcome := .next (respondResult (frameLen L) st)

end Sys2Proof.Machine
end

