-- ==== Sys2Proof/Machine/Validate.lean ====
section
/-! DEFINITION. The metadata validator: the three tables and the operations MAPAOT, MAPSFI and MAPCH (R59-R64). -/

namespace Sys2Proof.Machine

/-- The object type codes (R59). -/
def aotTable : List (Nat × BitVec 3) :=
  [(profileId .main, 1), (profileId .lc, 2), (profileId .ssr, 3), (profileId .ltp, 4)]

/-- `SFI_TABLE` (R61). Entries 0, 4 and 12 are the source's; the other ten are the spec's, from general knowledge
(D12, K1). PRESUMED, log entry 9. -/
def sfiTable : List (Nat × BitVec 4) :=
  [(96000, 0), (88200, 1), (64000, 2), (48000, 3), (44100, 4), (32000, 5), (24000, 6), (22050, 7), (16000, 8),
   (12000, 9), (11025, 10), (8000, 11), (7350, 12)]

/-- The channel configuration codes (R63). -/
def chTable : List (Nat × BitVec 3) :=
  [(layoutId .mono, 1), (layoutId .stereo, 2), (layoutId .three, 3), (layoutId .four, 4), (layoutId .five, 5),
   (layoutId .fiveOne, 6), (layoutId .sevenOne, 7)]

/-- `MapAOT(ok, id)` (R59). -/
def mapAot (ok : Bool) (id : Nat) : Option (BitVec 3) := lookupCode aotTable ok id

/-- `MapSFI(ok, hz)` (R61): matched by exact equality (D28). -/
def mapSfi (ok : Bool) (hz : Nat) : Option (BitVec 4) := lookupCode sfiTable ok hz

/-- `MapCH(ok, id)` (R63). -/
def mapCh (ok : Bool) (id : Nat) : Option (BitVec 3) := lookupCode chTable ok id

/-- MAPAOT (R60). -/
def execMapaot (ok : Bool) (id : Nat) (st : State) : StepOutcome := .next (respondResult (mapAot ok id) st)

/-- MAPSFI (R62). -/
def execMapsfi (ok : Bool) (hz : Nat) (st : State) : StepOutcome := .next (respondResult (mapSfi ok hz) st)

/-- MAPCH (R64). -/
def execMapch (ok : Bool) (id : Nat) (st : State) : StepOutcome := .next (respondResult (mapCh ok id) st)

end Sys2Proof.Machine
end

