-- ==== Sys2Proof/Machine/Header.lean ====
section
/-! DEFINITION. The header packer and the operation BUILD (R69-R75). -/

namespace Sys2Proof.Machine

/-- Byte 2 (R71): object type - 1, sample-rate index, private bit 1 (UNVERIFIED of the
hardware, log entry 15), the channel code's high bit (R73). -/
def headerByte2 (aot : BitVec 3) (sfi : BitVec 4) (ch : BitVec 3) : Byte :=
  ((aot - 1).setWidth 8 <<< 6) ||| (sfi.setWidth 8 <<< 2) ||| (1#8 <<< 1) |||
    extract (ch.setWidth 8) 6 6 (by decide)

/-- Byte 3 (R71): the channel code's low two bits (R73), stuffing `1111`, the frame length's top two bits (R74). -/
def headerByte3 (ch : BitVec 3) (f : BitVec 13) : Byte :=
  (extract (ch.setWidth 8) 7 8 (by decide) <<< 6) ||| (0b1111#8 <<< 2) |||
    (extract (f.setWidth 16) 4 5 (by decide)).setWidth 8

/-- Byte 4 (R71): the frame length's middle eight bits (R74). -/
def headerByte4 (f : BitVec 13) : Byte := (extract (f.setWidth 16) 6 13 (by decide)).setWidth 8

/-- Byte 5 (R71): the frame length's low three bits (R74), then five ones of buffer fullness. -/
def headerByte5 (f : BitVec 13) : Byte :=
  ((extract (f.setWidth 16) 14 16 (by decide)).setWidth 8 <<< 5) ||| 0b11111#8

/-- The big-endian reading of seven bytes as one 56-bit value: byte k stands at bits 55-8k..48-8k (R29). -/
def joinBytes (b0 b1 b2 b3 b4 b5 b6 : Byte) : RspData :=
  BitVec.ofNat 56 (b0.toNat * 2 ^ 48 + b1.toNat * 2 ^ 40 + b2.toNat * 2 ^ 32 + b3.toNat * 2 ^ 24 + b4.toNat * 2 ^ 16
    + b5.toNat * 2 ^ 8 + b6.toNat)

/-- Step 5 of R71: the seven bytes in order. Bytes 0, 1 and 6 are constant (R70). -/
def packHeader (aot : BitVec 3) (sfi : BitVec 4) (ch : BitVec 3) (f : BitVec 13) : RspData :=
  joinBytes 0xFF 0xF1 (headerByte2 aot sfi ch) (headerByte3 ch f) (headerByte4 f) (headerByte5 f) 0xFC

/-- `BuildHeader` (R71) under a given overflow policy: the steps in the source's order, the first FAIL wins. -/
def buildHeaderWith (policy : FlOverflow) (profOk : Bool) (profId : Nat) (rateOk : Bool) (rateHz : Nat)
    (chanOk : Bool) (chanId L : Nat) : Option RspData :=
  (mapAot profOk profId).bind fun aot =>
  (mapSfi rateOk rateHz).bind fun sfi =>
  (mapCh chanOk chanId).bind fun ch =>
  (frameLenWith policy L).bind fun f =>
  some (packHeader aot sfi ch f)

/-- `BuildHeader` (R71) under the block's own `FL_OVERFLOW`. -/
def buildHeader (profOk : Bool) (profId : Nat) (rateOk : Bool) (rateHz : Nat) (chanOk : Bool)
    (chanId L : Nat) : Option RspData :=
  buildHeaderWith overflowPolicy profOk profId rateOk rateHz chanOk chanId L

/-- BUILD (R72): all or nothing (R75). -/
def execBuild (profOk : Bool) (profId : Nat) (rateOk : Bool) (rateHz : Nat) (chanOk : Bool)
    (chanId L : Nat) (st : State) : StepOutcome :=
  .next (respondResult (buildHeader profOk profId rateOk rateHz chanOk chanId L) st)

/-- Byte `k` of the 56-bit view of a header (R29). -/
def headerByte (H : RspData) (k : Nat) : Byte := H.extractLsb' (48 - 8 * k) 8

end Sys2Proof.Machine
end

