-- ==== Sys2Proof/Machine/Dispatch.lean ====
section
/-! DEFINITION. One arm per operation of R39, each a call of its meaning. -/

namespace Sys2Proof.Machine

def exec (i : Instr) (s : State) : Host.Outcome State Fault Refusal :=
  match i with
  | .ext8 value start stop => Sys2Proof.Machine.execExt8 value start stop s
  | .ext16 value start stop => Sys2Proof.Machine.execExt16 value start stop s
  | .mapaot profOk profId => Sys2Proof.Machine.execMapaot profOk profId s
  | .mapsfi rateOk rateHz => Sys2Proof.Machine.execMapsfi rateOk rateHz s
  | .mapch chanOk chanId => Sys2Proof.Machine.execMapch chanOk chanId s
  | .flen payloadLen => Sys2Proof.Machine.execFlen payloadLen s
  | .build profOk profId rateOk rateHz chanOk chanId payloadLen => Sys2Proof.Machine.execBuild profOk profId rateOk rateHz chanOk chanId payloadLen s

end Sys2Proof.Machine
end

