-- ==== Sys2Proof/Machine/Fetch.lean ====
section
/-! DEFINITION. Whose turn it is and what it brings: the host's moves and the block's taking of the request in
flight (R12, R103). -/

namespace Sys2Proof.Machine

/-- What a turn brings: an outcome at once, or an instruction for the block to run from a state. -/
inductive Fetched where
  | settled (o : StepOutcome)
  | run (i : Instr) (s : State)
  deriving Repr

/-- The next turn; an empty schedule leaves it to the block, so an accepted request completes (R105). -/
def currentTurn (s : State) : Turn := s.schedule.headD .block

/-- The state once the turn is taken. -/
def popTurn (s : State) : State := { s with schedule := s.schedule.tail }

/-- The block consumes a request (R12): decoding runs before any operation (R48), and a word it refuses raises its
fault, so that no operation runs (R84, R85). -/
def decodeRequest (req : Word) (s : State) : Fetched :=
  match decode req with
  | .ok i => .run i s
  | .error e => .settled (.next (raiseFault (decodeFault req e) s))

/-- The block's turn: it takes the request in flight; with none it idles, since it never produces a response that was
not requested (R103). -/
def blockTurn (s : State) : Fetched :=
  match s.inFlight with
  | none => .settled (.next s)
  | some req => decodeRequest req { s with inFlight := none }

/-- One turn (R12, R20, R99, R103). -/
def takeTurn (t : Turn) (s : State) : Fetched :=
  match t with
  | .present req => .settled (acceptRequest req s)
  | .read f => .settled (.next (hostRead f s))
  | .reset => .settled (.next (applyReset s))
  | .block => blockTurn s

/-- The next turn of a state: once `FAULT` holds a record the block takes no further step (R93) and only a reset gets
through (R94). -/
def fetch (s : State) : Fetched :=
  match s.fault, currentTurn s with
  | some _, .reset => takeTurn .reset (popTurn s)
  | some r, _ => .settled (.fault (.halted r))
  | none, t => takeTurn t (popTurn s)

/-- The state with a request word in flight and the block to move next. -/
def placeRequest (req : Word) (s : State) : State :=
  { s with inFlight := some req, schedule := .block :: s.schedule }

end Sys2Proof.Machine
end

