-- ==== Sys2Proof/Machine/Step.lean ====
section
/-! DEFINITION. One step: the next turn, and the instruction it brings, if any. -/

namespace Sys2Proof.Machine

/-- One step of the machine (R12). -/
def step (s : State) : Host.Outcome State Fault Refusal :=
  match fetch s with
  | .settled o => o
  | .run i s' => exec i s'

/-- `s` with the table word in flight and the block to move next, so that the next step runs it (log entry 11). -/
def State.withFetchWord (s : State) (nbits w : Nat) : State := placeRequest (tableWord nbits w) s

end Sys2Proof.Machine
end

