-- ==== Sys2Proof/Machine/Assembler.lean ====
section
/-! DEFINITION. The assembler syntax and its pseudo-instructions (R49, R50). The assembler is the host's and moves
nothing in the machine; it says which words a written request stands for. -/

namespace Sys2Proof.Machine

/-- A written request (R49). An optional key is `none` where the text says `none`: the lookup did not resolve. -/
inductive AsmRequest where
  | ext8 (value start stop : Nat)
  | ext16 (value start stop : Nat)
  | mapAot (prof : Option Nat)
  | mapSfi (rate : Option Nat)
  | mapCh (chan : Option Nat)
  | flen (len : Nat)
  | build (prof rate chan : Option Nat) (len : Nat)
  deriving DecidableEq, Repr

/-- A pseudo-instruction (R50). -/
inductive AsmPseudo where
  | ext8All (value : Nat)
  | ext16All (value : Nat)
  | ext8Bit (value pos : Nat)
  | ext16Bit (value pos : Nat)
  deriving DecidableEq, Repr

/-- The expansion of R50. -/
def expandPseudo : AsmPseudo → AsmRequest
  | .ext8All v => .ext8 v 1 8
  | .ext16All v => .ext16 v 1 16
  | .ext8Bit v p => .ext8 v p p
  | .ext16Bit v p => .ext16 v p p

/-- `*_ok` of a written key (R49). -/
def keyOk (key : Option Nat) : Bool := key.isSome

/-- The identifier of a written key; zero for `none` (R49). -/
def keyId (key : Option Nat) : Nat := key.getD 0

/-- The instruction a written request stands for, or none where the assembler refuses a value that does not fit its
field (R49). -/
def assemble : AsmRequest → Option Instr
  | .ext8 v s e => if v ≤ 255 ∧ s ≤ 255 ∧ e ≤ 255 then some (.ext8 (BitVec.ofNat 8 v) s e) else none
  | .ext16 v s e => if v ≤ 65535 ∧ s ≤ 255 ∧ e ≤ 255 then some (.ext16 (BitVec.ofNat 16 v) s e) else none
  | .mapAot p => if keyId p ≤ 31 then some (.mapaot (keyOk p) (keyId p)) else none
  | .mapSfi r => if keyId r ≤ 262143 then some (.mapsfi (keyOk r) (keyId r)) else none
  | .mapCh c => if keyId c ≤ 15 then some (.mapch (keyOk c) (keyId c)) else none
  | .flen l => if l ≤ 1073741823 then some (.flen l) else none
  | .build p r c l =>
    if keyId p ≤ 31 ∧ keyId r ≤ 262143 ∧ keyId c ≤ 15 ∧ l ≤ 1073741823 then
      some (.build (keyOk p) (keyId p) (keyOk r) (keyId r) (keyOk c) (keyId c) l)
    else none

/-- The request word of a written request (R49). -/
def assembleWord (r : AsmRequest) : Option Word := (assemble r).map encode

/-- The value of one digit. -/
def digitValue (c : Char) : Nat :=
  if '0' ≤ c ∧ c ≤ '9' then c.toNat - 48
  else if 'a' ≤ c ∧ c ≤ 'f' then c.toNat - 87
  else if 'A' ≤ c ∧ c ≤ 'F' then c.toNat - 55
  else 16

/-- A non-empty string of digits of a base. -/
def parseDigits (base : Nat) (ds : List Char) : Option Nat :=
  if ds = [] ∨ ds.any (fun c => decide (base ≤ digitValue c)) then none
  else some (ds.foldl (fun n c => n * base + digitValue c) 0)

/-- A field value in decimal, `0x` hexadecimal or `0b` binary (R49). -/
def parseNumber : List Char → Option Nat
  | '0' :: 'x' :: ds => parseDigits 16 ds
  | '0' :: 'b' :: ds => parseDigits 2 ds
  | ds => parseDigits 10 ds

/-- `id(<n>)` (R49). -/
def parseId : List Char → Option Nat
  | 'i' :: 'd' :: '(' :: rest => if rest.getLast? = some ')' then parseNumber rest.dropLast else none
  | _ => none

/-- `<prof>` (R49): the outer option is a refusal, the inner one the key. -/
def parseProf (t : List Char) : Option (Option Nat) :=
  if t = "MAIN".toList then some (some (profileId .main))
  else if t = "LC".toList then some (some (profileId .lc))
  else if t = "SSR".toList then some (some (profileId .ssr))
  else if t = "LTP".toList then some (some (profileId .ltp))
  else if t = "none".toList then some none
  else (parseId t).map some

/-- `<rate>` (R49). -/
def parseRate (t : List Char) : Option (Option Nat) :=
  if t = "none".toList then some none else (parseNumber t).map some

/-- `<chan>` (R49). -/
def parseChan (t : List Char) : Option (Option Nat) :=
  if t = "MONO".toList then some (some (layoutId .mono))
  else if t = "STEREO".toList then some (some (layoutId .stereo))
  else if t = "THREE".toList then some (some (layoutId .three))
  else if t = "FOUR".toList then some (some (layoutId .four))
  else if t = "FIVE".toList then some (some (layoutId .five))
  else if t = "FIVEONE".toList then some (some (layoutId .fiveOne))
  else if t = "SEVENONE".toList then some (some (layoutId .sevenOne))
  else if t = "none".toList then some none
  else (parseId t).map some

/-- A space or a tab. DESIGN CHOICE, log entry 17. -/
def isBlank (c : Char) : Bool := c = ' ' || c = '\t'

/-- Without blanks at either end. -/
def trimBlanks (t : List Char) : List Char :=
  ((t.dropWhile isBlank).reverse.dropWhile isBlank).reverse

/-- The parts between commas. -/
def splitCommas : List Char → List (List Char)
  | [] => [[]]
  | ',' :: rest => [] :: splitCommas rest
  | c :: rest =>
    match splitCommas rest with
    | [] => [[c]]
    | p :: ps => (c :: p) :: ps

/-- A mnemonic with its operands (R49, R50). -/
def parseOperands (m : List Char) (ops : List (List Char)) : Option AsmRequest :=
  match ops with
  | [a] =>
    if m = "map.aot".toList then (parseProf a).map .mapAot
    else if m = "map.sfi".toList then (parseRate a).map .mapSfi
    else if m = "map.ch".toList then (parseChan a).map .mapCh
    else if m = "flen".toList then (parseNumber a).map .flen
    else if m = "ext8.all".toList then (parseNumber a).map fun v => expandPseudo (.ext8All v)
    else if m = "ext16.all".toList then (parseNumber a).map fun v => expandPseudo (.ext16All v)
    else none
  | [a, b] =>
    (parseNumber a).bind fun v => (parseNumber b).bind fun p =>
    if m = "ext8.bit".toList then some (expandPseudo (.ext8Bit v p))
    else if m = "ext16.bit".toList then some (expandPseudo (.ext16Bit v p))
    else none
  | [a, b, c] =>
    (parseNumber a).bind fun v => (parseNumber b).bind fun s => (parseNumber c).bind fun e =>
    if m = "ext8".toList then some (.ext8 v s e)
    else if m = "ext16".toList then some (.ext16 v s e)
    else none
  | [a, b, c, d] =>
    (parseProf a).bind fun p => (parseRate b).bind fun r => (parseChan c).bind fun k => (parseNumber d).bind fun l =>
    if m = "build".toList then some (.build p r k l) else none
  | _ => none

/-- One line of text (R49): the comment from `;` on is dropped; the mnemonic ends at the first blank. -/
def parseLine (line : List Char) : Option AsmRequest :=
  let body := trimBlanks (line.takeWhile (· ≠ ';'))
  let mnemonic := body.takeWhile (fun c => !isBlank c)
  let rest := trimBlanks (body.dropWhile (fun c => !isBlank c))
  parseOperands mnemonic ((splitCommas rest).map trimBlanks)

/-- A line with no request on it: blank, or only a comment. -/
def isEmptyLine (line : List Char) : Bool := trimBlanks (line.takeWhile (· ≠ ';')) = []

/-- The words of a text, one request a line, lines without a request skipped; none where a line is refused. -/
def assembleText (lines : List String) : Option (List Word) :=
  ((lines.map String.toList).filter (fun l => !isEmptyLine l)).mapM fun l => (parseLine l).bind assembleWord

end Sys2Proof.Machine
end

