-- ==== Sys2Proof/Machine/Run.lean ====
section
/-! DEFINITION. Runs (R99, R106): the history of the requests a run has presented, kept turn by turn over any schedule,
how a run ends, and its observation. The history is read off the steps and is no state of the block (R13; log
entry 19). -/

namespace Sys2Proof.Machine

/-- A response as a run's observation lists it: `rsp_ok` and `rsp_data` (R106). -/
abbrev Response := Bool × RspData

/-- The response the host reads (R20), once there is one (R25). -/
def response (s : State) : Option Response := if s.rspValid then some (s.rspOk, s.rspData) else none

/-- A request the host has presented in this run, and its response once the request has completed. -/
structure Presented where
  req : Word
  response : Option Response
  deriving DecidableEq, Repr

/-- How a run stands, or ended (R106). -/
inductive RunEnd where
  /-- Every presented request has completed with a response and `FAULT` is none: the run's observation. -/
  | well (observation : List Response)
  /-- `FAULT` is set: the run never ends well. -/
  | faulted (r : FaultRecord)
  /-- `FAULT` is none, and a presented request has no response. -/
  | incomplete
  deriving DecidableEq, Repr

/-- The runs that a reset has ended, oldest first, each with its end, which stays with it; and the present run's
requests in the order presented (R99). -/
structure RunHistory where
  past : List RunEnd
  current : List Presented
  deriving DecidableEq, Repr

/-- The history from which a run is followed: no request, but for one already in flight. -/
def startHistory (s : State) : RunHistory := { past := [], current := (s.inFlight.map fun w => ⟨w, none⟩).toList }

/-- The end of the run with these requests if it ends in this state (R106). -/
def runEnd (s : State) (requests : List Presented) : RunEnd :=
  match s.fault, requests.mapM Presented.response with
  | some r, _ => .faulted r
  | none, some observation => .well observation
  | none, none => .incomplete

/-- The request in flight, the last one presented, gets its response when it completes; one that raises a fault gets
none (R11, R103). -/
def recordCompletion (t : State) (w : Word) (requests : List Presented) : List Presented :=
  match t.fault with
  | none => requests.dropLast ++ [⟨w, response t⟩]
  | some _ => requests

/-- What the turn that led from `s` to `t` adds to the history: a request, a response, or, for a reset, a new run with
no request (R99, R103). -/
def recordTurn (s t : State) (h : RunHistory) : RunHistory :=
  match currentTurn s with
  | .reset => { past := h.past ++ [runEnd s h.current], current := [] }
  | .present w => { h with current := h.current ++ [⟨w, none⟩] }
  | .read _ => h
  | .block =>
    match s.inFlight with
    | some w => { h with current := recordCompletion t w h.current }
    | none => h

/-- A number of turns with their history. A turn that meets a halted block passes without effect (R93), so that a later
reset gets through (R94). A request the host must not present (R103) has no move: the run stays there, with the request
in flight never completed. -/
def followRun : Nat → State → RunHistory → State × RunHistory
  | 0, s, h => (s, h)
  | k + 1, s, h =>
    match step s with
    | .next t => followRun k t (recordTurn s t h)
    | .fault _ => followRun k (popTurn s) h
    | .refused _ => (s, h)

/-- The ends of all the runs of a schedule, in order: its turns, then the block's, so that an accepted request
completes (R105). -/
def runEnds (s : State) : List RunEnd :=
  let (t, h) := followRun (s.schedule.length + 1) s (startHistory s)
  h.past ++ [runEnd t h.current]

/-- The turns of a straight-line program: each request presented and then completed (R103). -/
def straightLine (ws : List Word) : List Turn := ws.flatMap fun w => [.present w, .block]

/-- The observation of a run of these requests: the responses in request order where it ends well (R106). -/
def observeRun (ws : List Word) (s : State) : Option (List Response) :=
  match runEnds { s with schedule := straightLine ws } with
  | [.well observation] => some observation
  | _ => none

end Sys2Proof.Machine
end

