-- ==== Sys2Proof/Safety.lean ====
section
/-! DEFINITION. The terms claims use: the invariant of the response interface and of the fault record, the companion
decoder (R79), each request's answer in closed form (R55, R59, R61, R63, R66, R76), written apart from the machine's own
way of computing it, and what a run's history says of its requests (R103, R106). -/

namespace Sys2Proof.Machine

/-- The constant mask of R81 and the value under it. -/
abbrev headerMask : RspData := 0xFFFF023C001FFF
abbrev headerConst : RspData := 0xFFF1023C001FFC

/-- What a fault record says is true of what it records (R84, R85, R86, R25). -/
def FaultRecord.Truthful (s : State) : FaultRecord → Prop
  | .illegalOp w => field w 60 4 = 0 ∨ 8 ≤ field w 60 4
  | .reservedNonzero w =>
    (field w 60 4 = 1 ∧ (field w 32 28 ≠ 0 ∨ field w 8 8 ≠ 0)) ∨ (field w 60 4 = 2 ∧ field w 32 28 ≠ 0)
  | .extractRange w a b W =>
    ((W = 8 ∧ field w 60 4 = 1) ∨ (W = 16 ∧ field w 60 4 = 2)) ∧ field w 32 28 = 0 ∧
      field w 24 8 = a ∧ field w 16 8 = b ∧ ¬ InContract W a b
  | .unwrittenRead f => s.rspValid = false ∧ f ≠ .valid

/-- The invariant: an absent result shows all zeros (R22), a result is either a header with its constant bits (R81) or
at most 16 bits wide (R51), and a recorded fault is truthful. -/
def State.Inv (s : State) : Prop :=
  (s.rspValid = true → s.rspOk = false → s.rspData = 0) ∧
  (s.rspValid = true → s.rspOk = true → s.rspData.toNat < 2 ^ 16 ∨ s.rspData &&& headerMask = headerConst) ∧
  (∀ r, s.fault = some r → FaultRecord.Truthful s r)

/-- The companion decoder of R79, on bytes 2 to 5 of a header: object type, sample-rate index, channel
configuration, frame length. -/
def companionDecode (H : RspData) : Nat × Nat × Nat × Nat :=
  let b2 := headerByte H 2
  let b3 := headerByte H 3
  let b4 := headerByte H 4
  let b5 := headerByte H 5
  ((b2 >>> 6).toNat + 1,
   ((b2 >>> 2) &&& 0xF).toNat,
   ((b2 &&& 1).toNat <<< 2) ||| (b3 >>> 6).toNat,
   ((b3 &&& 3).toNat <<< 11) ||| (b4.toNat <<< 3) ||| (b5 >>> 5).toNat)

/-- `v[hi:lo]` as R7 writes it, with its width in place of `hi`. -/
def bitsOf (w : Word) (lo n : Nat) : Nat := w.toNat / 2 ^ lo % 2 ^ n

/-- The closed form of the extractor (R55, R57). -/
def idealExtract (W v s e : Nat) : Nat := if s ≤ e then v / 2 ^ (W - e) % 2 ^ (e - s + 1) else 0

/-- The object type code (R59). -/
def idealAot (ok id : Nat) : Option Nat := if ok = 1 ∧ 1 ≤ id ∧ id ≤ 4 then some id else none

/-- The frequencies of R61 in index order. -/
def sampleRates : List Nat :=
  [96000, 88200, 64000, 48000, 44100, 32000, 24000, 22050, 16000, 12000, 11025, 8000, 7350]

/-- The sample-rate index (R61). -/
def idealSfi (ok hz : Nat) : Option Nat := if ok = 1 ∧ hz ∈ sampleRates then some (sampleRates.idxOf hz) else none

/-- The channel configuration code (R63). -/
def idealCh (ok id : Nat) : Option Nat := if ok = 1 ∧ 1 ≤ id ∧ id ≤ 7 then some id else none

/-- The frame length (R66). -/
def idealFrame (policy : FlOverflow) (L : Nat) : Option Nat :=
  if L ≤ 8184 then some (7 + L) else if policy = .truncate then some ((7 + L) % 8192) else none

/-- The header as a sum of its fields (R76). -/
def idealHeader (aot sfi ch f : Nat) : Nat :=
  0xFFF * 2 ^ 44 + 2 ^ 40 + (aot - 1) * 2 ^ 38 + sfi * 2 ^ 34 + 2 ^ 33 + ch * 2 ^ 30 + 0xF * 2 ^ 26 + f * 2 ^ 13
    + 0x7FF * 2 ^ 2

/-- A response from a result or its absence (R17, R22). -/
def idealRespond (r : Option Nat) : Bool × RspData :=
  match r with
  | some n => (true, BitVec.ofNat 56 n)
  | none => (false, 0)

/-- The answer of an extractor request in closed form (R55, R57, R58). -/
def idealExtractAnswer (w : Word) (W : Nat) : Except FaultRecord (Bool × RspData) :=
  let s := bitsOf w 24 8
  let e := bitsOf w 16 8
  if s = 0 ∨ W < s ∨ e = 0 ∨ W < e then .error (.extractRange w s e W)
  else .ok (true, BitVec.ofNat 56 (idealExtract W (bitsOf w 0 W) s e))

/-- The answer of a request word in closed form: a response or a fault (R14, R82, R90). -/
def idealAnswer (policy : FlOverflow) (w : Word) : Except FaultRecord (Bool × RspData) :=
  let op := bitsOf w 60 4
  let aot := idealAot (bitsOf w 59 1) (bitsOf w 54 5)
  let sfi := idealSfi (bitsOf w 53 1) (bitsOf w 35 18)
  let ch := idealCh (bitsOf w 34 1) (bitsOf w 30 4)
  let f := idealFrame policy (bitsOf w 0 30)
  if op = 1 then
    if bitsOf w 32 28 ≠ 0 ∨ bitsOf w 8 8 ≠ 0 then .error (.reservedNonzero w) else idealExtractAnswer w 8
  else if op = 2 then
    if bitsOf w 32 28 ≠ 0 then .error (.reservedNonzero w) else idealExtractAnswer w 16
  else if op = 3 then .ok (idealRespond aot)
  else if op = 4 then .ok (idealRespond sfi)
  else if op = 5 then .ok (idealRespond ch)
  else if op = 6 then .ok (idealRespond f)
  else if op = 7 then
    .ok (idealRespond (aot.bind fun a => sfi.bind fun i => ch.bind fun c => f.bind fun n =>
      some (idealHeader a i c n)))
  else .error (.illegalOp w)

/-- What a state becomes when a request with this answer completes: the response registers written, or the fault
recorded (R11). -/
def applyAnswer (a : Except FaultRecord (Bool × RspData)) (s : State) : State :=
  match a with
  | .ok (ok, data) => { s with rspValid := true, rspOk := ok, rspData := data }
  | .error r => { s with fault := s.fault.or (some r) }

/-- The history accounts for every request (R35, R103): each one but the last has completed with its own closed-form
answer, in the order presented; so has the last, unless it is in flight or has raised the fault recorded. -/
def RunHistory.Accounts (s : State) (h : RunHistory) : Prop :=
  ∃ done pending, h.current = done ++ pending ∧
    (∀ p ∈ done, ∃ r, p.response = some r ∧ idealAnswer Config.flOverflow p.req = .ok r) ∧
    match s.inFlight with
    | some w => pending = [⟨w, none⟩]
    | none => pending = [] ∨
        ∃ w r, pending = [⟨w, none⟩] ∧ s.fault = some r ∧ idealAnswer Config.flOverflow w = .error r

end Sys2Proof.Machine
end

