-- ==== Sys2Proof/Certificates/Slice0/Obligations.lean ====
section
/-! DEFINITION. The statements for the provers, from the numbered rules of spec/. A request placed in flight
(`placeRequest w s`) is one the host has presented and the block is to complete next (R103). The fields `inFlight` and
`schedule` are the model's own (log entries 2 and 3): what a statement says of them is the model's choice, and cites no
rule. -/

open Sys2Proof Sys2Proof.Machine

/-! ### Encoding -/

/-- The request words of 95_test_vectors.md, one or more per operation, decode to the requests they stand for, and
the raw words are refused by name (also through `decodeTableWord`). -/
def Obligations.SpecRequestWordsDecode : Prop :=
  decode 0x10000000010400AC = .ok (.ext8 0xAC 1 4) ∧
  decode 0x20000000060D006B = .ok (.ext16 0x006B 6 13) ∧
  decode 0x3880000000000000 = .ok (.mapaot true 2) ∧
  decode 0x38A5622480000064 = .ok (.mapaot true 2) ∧
  decode 0x4025622000000000 = .ok (.mapsfi true 44100) ∧
  decode 0x50000005C0000000 = .ok (.mapch true 7) ∧
  decode 0x6000000000000064 = .ok (.flen 100) ∧
  decode 0x78A5622480000064 = .ok (.build true 2 true 44100 true 2 100) ∧
  decode 0x10000000010412AC = .error .reservedNonzero ∧
  decode 0x280000000110ABCD = .error .reservedNonzero ∧
  decode 0 = .error .illegalOp ∧
  decode 0xFFFFFFFFFFFFFFFF = .error .illegalOp ∧
  decodeTableWord 64 0x50000005C0000000 = some (.mapch true 7)

/-- Decoding the word of a well-formed instruction gives the instruction back, for every instruction and every value
its fields admit (R40, R41, R48). -/
def Obligations.DecodeOfEncodeIsIdentity : Prop :=
  ∀ i : Instr, i.wellFormed = true → decode (encode i) = .ok i

/-- What the decoder yields is well formed and carries the word's operation field; where the operation reads every
bit of its format (EXT8, EXT16, BUILD), encoding it gives the very word back, so no bit is dropped. -/
def Obligations.DecodedInstructionCarriesItsWord : Prop :=
  ∀ (w : Word) (i : Instr), decode w = .ok i →
    i.wellFormed = true ∧ opField i = field w 60 4 ∧
      (opField i = 1 ∨ opField i = 2 ∨ opField i = 7 → encode i = w)

/-- R46: in Format H the fields an operation does not read have no effect. Two words of one operation that agree on
the fields it reads decode alike; BUILD reads every field, so two BUILD words that decode alike are one word; the
encoder, like the assembler, writes zeros into the fields not read. -/
def Obligations.UnreadFieldsHaveNoEffect : Prop :=
  (∀ w w' : Word, field w 60 4 = 3 → field w' 60 4 = 3 → flag w 59 = flag w' 59 → field w 54 5 = field w' 54 5 →
    decode w = decode w') ∧
  (∀ w w' : Word, field w 60 4 = 4 → field w' 60 4 = 4 → flag w 53 = flag w' 53 → field w 35 18 = field w' 35 18 →
    decode w = decode w') ∧
  (∀ w w' : Word, field w 60 4 = 5 → field w' 60 4 = 5 → flag w 34 = flag w' 34 → field w 30 4 = field w' 30 4 →
    decode w = decode w') ∧
  (∀ w w' : Word, field w 60 4 = 6 → field w' 60 4 = 6 → field w 0 30 = field w' 0 30 → decode w = decode w') ∧
  (∀ w w' : Word, field w 60 4 = 7 → field w' 60 4 = 7 → decode w = decode w' → w = w') ∧
  (∀ ok p, field (encode (.mapaot ok p)) 0 54 = 0) ∧
  (∀ ok hz, hz < 2 ^ 18 → field (encode (.mapsfi ok hz)) 54 6 = 0 ∧ field (encode (.mapsfi ok hz)) 0 35 = 0) ∧
  (∀ ok c, c < 2 ^ 4 → field (encode (.mapch ok c)) 35 25 = 0 ∧ field (encode (.mapch ok c)) 0 30 = 0) ∧
  (∀ l, l < 2 ^ 30 → field (encode (.flen l)) 30 30 = 0)

/-! ### Faults -/

/-- R44, R84: a request whose op is 0x0 or 0x8-0xF raises ILLEGAL_OP with its word, and no operation runs: nothing
else of the state changes but that the request is consumed. No other op raises it. -/
def Obligations.IllegalOpIsRaisedExactlyByUnassignedOps : Prop :=
  ∀ (w : Word) (s : State), s.fault = none →
    ((field w 60 4 = 0 ∨ 8 ≤ field w 60 4) →
      step (placeRequest w s) = .next { s with inFlight := none, fault := some (.illegalOp w) }) ∧
    (1 ≤ field w 60 4 → field w 60 4 ≤ 7 →
      ∃ t, step (placeRequest w s) = .next t ∧ ∀ v, t.fault ≠ some (.illegalOp v))

/-- R45, R85: RESERVED_NONZERO is raised by an EXT8 or EXT16 request with `req[59:32]` not zero and by an EXT8 request
with `req[15:8]` not zero; the other operations never raise it, nor does an extractor request without such a bit. -/
def Obligations.ReservedBitsRaiseReservedNonzero : Prop :=
  ∀ (w : Word) (s : State), s.fault = none →
    ((field w 60 4 = 1 ∧ (field w 32 28 ≠ 0 ∨ field w 8 8 ≠ 0)) ∨ (field w 60 4 = 2 ∧ field w 32 28 ≠ 0) →
      step (placeRequest w s) = .next { s with inFlight := none, fault := some (.reservedNonzero w) }) ∧
    ((3 ≤ field w 60 4 ∧ field w 60 4 ≤ 7) ∨ (field w 60 4 = 1 ∧ field w 32 28 = 0 ∧ field w 8 8 = 0) ∨
        (field w 60 4 = 2 ∧ field w 32 28 = 0) →
      ∃ t, step (placeRequest w s) = .next t ∧ ∀ v, t.fault ≠ some (.reservedNonzero v))

/-- R58, R86: EXT8 and EXT16 raise EXTRACT_RANGE, with the request word, s, e and W, when s = 0, s > W, e = 0 or
e > W; the response registers keep their values. BUILD never raises a fault. -/
def Obligations.OutOfContractRangeRaisesExtractRange : Prop :=
  (∀ (w : Word) (s : State), s.fault = none → field w 60 4 = 1 → field w 32 28 = 0 → field w 8 8 = 0 →
    (field w 24 8 = 0 ∨ 8 < field w 24 8 ∨ field w 16 8 = 0 ∨ 8 < field w 16 8) →
    step (placeRequest w s) =
      .next { s with inFlight := none, fault := some (.extractRange w (field w 24 8) (field w 16 8) 8) }) ∧
  (∀ (w : Word) (s : State), s.fault = none → field w 60 4 = 2 → field w 32 28 = 0 →
    (field w 24 8 = 0 ∨ 16 < field w 24 8 ∨ field w 16 8 = 0 ∨ 16 < field w 16 8) →
    step (placeRequest w s) =
      .next { s with inFlight := none, fault := some (.extractRange w (field w 24 8) (field w 16 8) 16) }) ∧
  (∀ (po ro co : Bool) (p hz c l : Nat) (s : State),
    ∃ t, exec (.build po p ro hz co c l) s = .next t ∧ t.fault = s.fault)

/-- R90: a request with a reserved bit set and a range out of contract records RESERVED_NONZERO, and a request with an
unassigned op records ILLEGAL_OP whatever its other bits are. -/
def Obligations.FaultPriorityFollowsTheDecoder : Prop :=
  ∀ (w : Word) (s : State), s.fault = none →
    (field w 60 4 = 0 ∨ 8 ≤ field w 60 4 →
      ∃ t, step (placeRequest w s) = .next t ∧ t.fault.map FaultRecord.code = some .illegalOp) ∧
    (field w 60 4 = 1 ∧ (field w 32 28 ≠ 0 ∨ field w 8 8 ≠ 0) →
      ∃ t, step (placeRequest w s) = .next t ∧ t.fault.map FaultRecord.code = some .reservedNonzero) ∧
    (field w 60 4 = 2 ∧ field w 32 28 ≠ 0 →
      ∃ t, step (placeRequest w s) = .next t ∧ t.fault.map FaultRecord.code = some .reservedNonzero)

/-- R23, R93: FAULT starts as none and the first fault raised sets it. Once it is set the block takes no further step:
every turn but a reset answers `halted`, so no step but a reset leads on and nothing clears the record within the run;
no operation changes it either; and a run with FAULT set never ends well, whatever further turns and requests follow in
it. -/
def Obligations.RecordedFaultEndsTheRun : Prop :=
  State.reset.fault = none ∧
  (∀ (r : FaultRecord) (s : State), s.fault = none → (raiseFault r s).fault = some r) ∧
  (∀ (s : State) (r : FaultRecord), s.fault = some r → currentTurn s ≠ .reset → step s = .fault (.halted r)) ∧
  (∀ (s t : State) (r : FaultRecord), s.fault = some r → step s = .next t → currentTurn s = .reset) ∧
  (∀ (i : Instr) (s : State) (r : FaultRecord), s.fault = some r → ∃ t, exec i s = .next t ∧ t.fault = some r) ∧
  (∀ (ws : List Word) (s : State) (r : FaultRecord), s.fault = some r → observeRun ws s = none) ∧
  (∀ (k : Nat) (s : State) (h : RunHistory) (r : FaultRecord), s.fault = some r → .reset ∉ s.schedule.take k →
    runEnd (followRun k s h).1 (followRun k s h).2.current = .faulted r)

/-! ### The response interface -/

/-- R24: after reset `rsp_valid` is 0 and FAULT is none; `rsp_ok` and `rsp_data` have no value a read could give. -/
def Obligations.ResetLeavesNoResponseAndNoFault : Prop :=
  State.reset.rspValid = false ∧ State.reset.fault = none ∧
    readRspOk State.reset = none ∧ readRspData State.reset = none

/-- A reset, at any turn and in any state (also one halted on a fault), sets the interface to the values of R24,
discards a request in flight without a response, and begins a new run (R99), whose turns are the host's turns still to
come: the model's choice, log entry 10. -/
def Obligations.ResetDiscardsTheRequestInFlight : Prop :=
  ∀ (s : State) (rest : List Turn), s.schedule = .reset :: rest →
    ∃ t, step s = .next t ∧ t.rspValid = false ∧ readRspOk t = none ∧ readRspData t = none ∧
      t.fault = none ∧ t.inFlight = none ∧ t.schedule = rest

/-- R99: a reset, in any state, sets the interface to the values of R24 and discards a request in flight; a request
without a response gets none, so the run that presented it does not end well. A new run begins, with FAULT none and no
request in its history; and a fault recorded in the run that ends stays with that run, among the runs past, whose own
ends stay as they were. -/
def Obligations.ResetBeginsANewRun : Prop :=
  ∀ (s : State) (h : RunHistory), currentTurn s = .reset →
    ∃ t, step s = .next t ∧ t.rspValid = false ∧ readRspOk t = none ∧ readRspData t = none ∧ t.fault = none ∧
      t.inFlight = none ∧ (recordTurn s t h).current = [] ∧
      ∃ ended, (recordTurn s t h).past = h.past ++ [ended] ∧ (∀ r, s.fault = some r → ended = .faulted r) ∧
        ((∃ p ∈ h.current, p.response = none) → ∀ observation, ended ≠ .well observation)

/-- R25: while `rsp_valid` is 0 a read of `rsp_ok` or `rsp_data` gives no value and raises UNWRITTEN_READ. -/
def Obligations.ReadBeforeTheFirstResponseFaults : Prop :=
  ∀ (s : State) (f : RspField) (rest : List Turn), s.schedule = .read f :: rest → s.fault = none →
    s.rspValid = false → f ≠ .valid →
      readRspOk s = none ∧ readRspData s = none ∧
      step s = .next { s with schedule := rest, fault := some (.unwrittenRead f) }

/-- R20: a read of `rsp_valid` at any time, and of any field once there is a response, has no side effect. It gives the
values the most recent completed request wrote: those are what a read gives right after the request responds, and no
turn but a completion or a reset changes the registers; after a reset `rsp_valid` reads 0. -/
def Obligations.ReadsHaveNoSideEffect : Prop :=
  (∀ (s : State) (ok : Bool) (d : RspData),
    readRspValid (respond ok d s) = true ∧ readRspOk (respond ok d s) = some ok ∧
      readRspData (respond ok d s) = some d) ∧
  readRspValid State.reset = false ∧
  (∀ (s : State) (f : RspField) (rest : List Turn), s.schedule = .read f :: rest → s.fault = none →
    (f = .valid ∨ s.rspValid = true) → step s = .next { s with schedule := rest }) ∧
  (∀ s t : State, step s = .next t → currentTurn s ≠ .reset → (currentTurn s ≠ .block ∨ s.inFlight = none) →
    t.rspValid = s.rspValid ∧ t.rspOk = s.rspOk ∧ t.rspData = s.rspData)

/-- R21: `rsp_valid` is 0 after reset, the first completed request sets it to 1, it stays 1 until the next reset, and a
request that raises a fault does not change it. -/
def Obligations.RspValidIsSetByACompletedRequest : Prop :=
  State.reset.rspValid = false ∧
  (∀ (w : Word) (s : State), s.fault = none →
    ∃ t, step (placeRequest w s) = .next t ∧
      (t.fault = none → t.rspValid = true) ∧ (t.fault.isSome → t.rspValid = s.rspValid)) ∧
  (∀ s t : State, step s = .next t → currentTurn s ≠ .reset → s.rspValid = true → t.rspValid = true)

/-- R82, R89: every request has exactly one of three outcomes. Success and status failure (which shows all zeros,
R22) are responses that leave FAULT alone; a fault is recorded and leaves the three response registers as they were. -/
def Obligations.EveryRequestHasOneOfThreeOutcomes : Prop :=
  ∀ (w : Word) (s : State), s.fault = none →
    ∃ t, step (placeRequest w s) = .next t ∧ t.inFlight = none ∧ t.schedule = s.schedule ∧
      ((t.fault = none ∧ t.rspValid = true ∧ t.rspOk = true) ∨
       (t.fault = none ∧ t.rspValid = true ∧ t.rspOk = false ∧ t.rspData = 0) ∨
       (t.fault.isSome ∧ t.rspValid = s.rspValid ∧ t.rspOk = s.rspOk ∧ t.rspData = s.rspData))

/-- R14: what a request writes into `rsp_ok` and `rsp_data`, and the fault it raises, depend on its word alone: from
any two states without a fault it gives the same. -/
def Obligations.ResponsesDependOnTheRequestAlone : Prop :=
  ∀ (w : Word) (s s' : State), s.fault = none → s'.fault = none →
    ∃ t t', step (placeRequest w s) = .next t ∧ step (placeRequest w s') = .next t' ∧ t.fault = t'.fault ∧
      (t.fault = none → t.rspOk = t'.rspOk ∧ t.rspData = t'.rspData)

/-- The frame of every instruction, from every state: it answers a next state, the request in flight and the schedule
are as they were, and either the three response registers alone are written, or (EXT8 and EXT16 out of contract alone)
FAULT alone is. -/
def Obligations.InstructionsWriteTheResponseOrTheFaultAlone : Prop :=
  ∀ (i : Instr) (s : State),
    (∃ (ok : Bool) (d : RspData), exec i s = .next { s with rspValid := true, rspOk := ok, rspData := d }) ∨
    (∃ (v : BitVec 8) (a b : Nat), i = .ext8 v a b ∧ ¬ InContract 8 a b ∧
      exec i s = .next { s with fault := s.fault.or (some (.extractRange (encode i) a b 8)) }) ∨
    (∃ (v : BitVec 16) (a b : Nat), i = .ext16 v a b ∧ ¬ InContract 16 a b ∧
      exec i s = .next { s with fault := s.fault.or (some (.extractRange (encode i) a b 16)) })

/-! ### Steps and turns -/

/-- A step on the block's turn, with a request in flight whose word decodes, is `exec` of the decoded instruction: the
request is consumed, the turn taken, and nothing else around it changes. -/
def Obligations.StepRunsTheDecodedInstruction : Prop :=
  ∀ (s : State) (w : Word) (i : Instr), s.fault = none → currentTurn s = .block → s.inFlight = some w →
    decode w = .ok i → step s = exec i { s with inFlight := none, schedule := s.schedule.tail }

/-- The host's other duties (R103): a request presented while none is in flight is accepted and nothing else changes;
one presented while another is in flight is refused by name (the model's choice: log entry 4); the block's turn with
none in flight changes nothing, so no response comes unrequested. -/
def Obligations.OneRequestIsOutstandingAtATime : Prop :=
  (∀ (s : State) (w : Word) (rest : List Turn), s.fault = none → s.schedule = .present w :: rest →
    s.inFlight = none → step s = .next { s with inFlight := some w, schedule := rest }) ∧
  (∀ (s : State) (w v : Word) (rest : List Turn), s.fault = none → s.schedule = .present w :: rest →
    s.inFlight = some v → step s = .refused (.requestWhileInFlight w)) ∧
  (∀ s : State, s.fault = none → currentTurn s = .block → s.inFlight = none →
    step s = .next { s with schedule := s.schedule.tail })

/-! ### The extractor -/

/-- EXT8 inside its contract completes with `rsp_ok` 1 and the slice of positions start..end counted from the MSB,
right-aligned, and changes nothing else (R53 by the closed form the spec derives in R55). -/
def Obligations.Ext8AnswersTheSlice : Prop :=
  ∀ (s : State) (v : BitVec 8) (a b : Nat), 1 ≤ a → a ≤ 8 → 1 ≤ b → b ≤ 8 →
    exec (.ext8 v a b) s = .next { s with
      rspValid := true
      rspOk := true
      rspData := BitVec.ofNat 56 (if a ≤ b then v.toNat / 2 ^ (8 - b) % 2 ^ (b - a + 1) else 0) }

/-- EXT16 inside its contract, likewise, with 16 in the width term (R54 by the closed form of R55). -/
def Obligations.Ext16AnswersTheSlice : Prop :=
  ∀ (s : State) (v : BitVec 16) (a b : Nat), 1 ≤ a → a ≤ 16 → 1 ≤ b → b ≤ 16 →
    exec (.ext16 v a b) s = .next { s with
      rspValid := true
      rspOk := true
      rspData := BitVec.ofNat 56 (if a ≤ b then v.toNat / 2 ^ (16 - b) % 2 ^ (b - a + 1) else 0) }

/-- The primitive equals both closed forms the spec derives in R55, at every width. -/
def Obligations.ExtractEqualsItsClosedForms : Prop :=
  ∀ (W : Nat) (v : BitVec W) (s e : Nat) (h : InContract W s e),
    (extract v s e h).toNat = v.toNat % 2 ^ (W - s + 1) / 2 ^ (W - e) ∧
    (s ≤ e → (extract v s e h).toNat = v.toNat / 2 ^ (W - e) % 2 ^ (e - s + 1)) ∧
    (e < s → extract v s e h = 0)

/-- A full-range extraction returns its operand, at both widths (R56, which the spec derives from R52). -/
def Obligations.FullRangeExtractionIsTheIdentity : Prop :=
  (∀ (s : State) (v : BitVec 8), exec (.ext8 v 1 8) s =
    .next { s with rspValid := true, rspOk := true, rspData := v.setWidth 56 }) ∧
  (∀ (s : State) (v : BitVec 16), exec (.ext16 v 1 16) s =
    .next { s with rspValid := true, rspOk := true, rspData := v.setWidth 56 })

/-- R57: a reversed range (1 ≤ e < s ≤ W) is within the contract and gives 0, at both widths. -/
def Obligations.ReversedRangeGivesZero : Prop :=
  (∀ (s : State) (v : BitVec 8) (a b : Nat), 1 ≤ b → b < a → a ≤ 8 →
    exec (.ext8 v a b) s = .next { s with rspValid := true, rspOk := true, rspData := 0 }) ∧
  (∀ (s : State) (v : BitVec 16) (a b : Nat), 1 ≤ b → b < a → a ≤ 16 →
    exec (.ext16 v a b) s = .next { s with rspValid := true, rspOk := true, rspData := 0 })

/-! ### The metadata validator -/

/-- R59, R60: a word with op 0x3 is MAPAOT of `prof_ok` and `prof_id`; MAPAOT answers the identifier itself where the
lookup resolved to 1..4, and the absent result otherwise; it changes nothing else and raises no fault. -/
def Obligations.MapaotAnswersTheObjectTypeCode : Prop :=
  (∀ w : Word, field w 60 4 = 3 → decode w = .ok (.mapaot (flag w 59) (field w 54 5))) ∧
  (∀ (s : State) (id : Nat), 1 ≤ id → id ≤ 4 → exec (.mapaot true id) s =
    .next { s with rspValid := true, rspOk := true, rspData := BitVec.ofNat 56 id }) ∧
  (∀ (s : State) (ok : Bool) (id : Nat), ok = false ∨ id = 0 ∨ 5 ≤ id → exec (.mapaot ok id) s =
    .next { s with rspValid := true, rspOk := false, rspData := 0 })

/-- A word with op 0x4 is MAPSFI of `rate_ok` and `rate_hz`; MAPSFI answers the index of R61's table where the lookup
resolved to a table frequency, 0..12, and the absent result otherwise; it changes nothing else and raises no fault. Ten
of the table's entries are general knowledge (log entry 9). -/
def Obligations.MapsfiAnswersTheTableIndex : Prop :=
  (∀ w : Word, field w 60 4 = 4 → decode w = .ok (.mapsfi (flag w 53) (field w 35 18))) ∧
  (∀ (s : State) (k : Nat), k ≤ 12 → exec (.mapsfi true (sampleRates.getD k 0)) s =
    .next { s with rspValid := true, rspOk := true, rspData := BitVec.ofNat 56 k }) ∧
  (∀ (s : State) (ok : Bool) (hz : Nat), ok = false ∨ hz ∉ sampleRates → exec (.mapsfi ok hz) s =
    .next { s with rspValid := true, rspOk := false, rspData := 0 })

/-- R63, R64: a word with op 0x5 is MAPCH of `chan_ok` and `chan_id`; MAPCH answers the identifier itself where the
lookup resolved to 1..7, and the absent result otherwise; it changes nothing else and raises no fault. -/
def Obligations.MapchAnswersTheChannelCode : Prop :=
  (∀ w : Word, field w 60 4 = 5 → decode w = .ok (.mapch (flag w 34) (field w 30 4))) ∧
  (∀ (s : State) (id : Nat), 1 ≤ id → id ≤ 7 → exec (.mapch true id) s =
    .next { s with rspValid := true, rspOk := true, rspData := BitVec.ofNat 56 id }) ∧
  (∀ (s : State) (ok : Bool) (id : Nat), ok = false ∨ id = 0 ∨ 8 ≤ id → exec (.mapch ok id) s =
    .next { s with rspValid := true, rspOk := false, rspData := 0 })

/-- R65: a FAIL from MapAOT, MapSFI or MapCH and, inside BUILD, from any of them, gives the same response, `rsp_ok` 0
and `rsp_data` 0, and nothing else that would say which field failed. -/
def Obligations.LookupFailuresAllLookTheSame : Prop :=
  ∀ (s : State) (po ro co : Bool) (p hz c l : Nat),
    (mapAot po p = none → exec (.mapaot po p) s = .next { s with rspValid := true, rspOk := false, rspData := 0 }) ∧
    (mapSfi ro hz = none → exec (.mapsfi ro hz) s = .next { s with rspValid := true, rspOk := false, rspData := 0 }) ∧
    (mapCh co c = none → exec (.mapch co c) s = .next { s with rspValid := true, rspOk := false, rspData := 0 }) ∧
    (mapAot po p = none ∨ mapSfi ro hz = none ∨ mapCh co c = none →
      exec (.build po p ro hz co c l) s = .next { s with rspValid := true, rspOk := false, rspData := 0 })

/-- A lookup that did not resolve, or resolved outside its table, gives `rsp_ok` 0 and `rsp_data` 0 from MAPAOT, MAPSFI,
MAPCH and, whichever of the three it is and whatever the other inputs are, from BUILD (R87; R80, derived). Which
frequencies are outside the table rests on ten general-knowledge entries (log entry 9). -/
def Obligations.UnsupportedMetadataIsTheAbsentResult : Prop :=
  ∀ (s : State) (po ro co : Bool) (p hz c l : Nat),
    (po = false ∨ p = 0 ∨ 5 ≤ p →
      exec (.mapaot po p) s = .next { s with rspValid := true, rspOk := false, rspData := 0 }) ∧
    (ro = false ∨ hz ∉ sampleRates →
      exec (.mapsfi ro hz) s = .next { s with rspValid := true, rspOk := false, rspData := 0 }) ∧
    (co = false ∨ c = 0 ∨ 8 ≤ c →
      exec (.mapch co c) s = .next { s with rspValid := true, rspOk := false, rspData := 0 }) ∧
    ((po = false ∨ p = 0 ∨ 5 ≤ p) ∨ (ro = false ∨ hz ∉ sampleRates) ∨ (co = false ∨ c = 0 ∨ 8 ≤ c) →
      exec (.build po p ro hz co c l) s = .next { s with rspValid := true, rspOk := false, rspData := 0 })

/-! ### The frame length -/

/-- R66, R67: a word with op 0x6 is FLEN of `payload_len`; FLEN answers 7 + L up to L = 8184; above, the absent result
under REJECT and (7 + L) mod 8192 under TRUNCATE, whichever policy the block was built with. The same holds of the
frame-length computation under each policy. -/
def Obligations.FlenAnswersTheFrameLength : Prop :=
  (∀ w : Word, field w 60 4 = 6 → decode w = .ok (.flen (field w 0 30))) ∧
  (∀ (s : State) (L : Nat), L ≤ 8184 → exec (.flen L) s =
    .next { s with rspValid := true, rspOk := true, rspData := BitVec.ofNat 56 (7 + L) }) ∧
  (∀ (s : State) (L : Nat), 8185 ≤ L → exec (.flen L) s =
    match Config.flOverflow with
    | .reject => .next { s with rspValid := true, rspOk := false, rspData := 0 }
    | .truncate => .next { s with rspValid := true, rspOk := true, rspData := BitVec.ofNat 56 ((7 + L) % 8192) }) ∧
  (∀ L : Nat, L ≤ 8184 → ∀ policy, (frameLenWith policy L).map BitVec.toNat = some (7 + L)) ∧
  (∀ L : Nat, 8185 ≤ L → frameLenWith .reject L = none ∧
    (frameLenWith .truncate L).map BitVec.toNat = some ((7 + L) % 8192))

/-- R88: when 7 + L > 8191, FLEN and BUILD give `rsp_ok` 0 and `rsp_data` 0 under REJECT, like unsupported metadata;
under TRUNCATE this failure never occurs: FLEN answers, and so does BUILD where the three
lookups resolve. -/
def Obligations.FrameTooLongIsTheAbsentResultUnderReject : Prop :=
  ∀ (s : State) (po ro co : Bool) (p hz c L : Nat), 8191 < 7 + L →
    match Config.flOverflow with
    | .reject =>
      exec (.flen L) s = .next { s with rspValid := true, rspOk := false, rspData := 0 } ∧
      exec (.build po p ro hz co c L) s = .next { s with rspValid := true, rspOk := false, rspData := 0 }
    | .truncate =>
      (∃ d, exec (.flen L) s = .next { s with rspValid := true, rspOk := true, rspData := d }) ∧
      ((mapAot po p).isSome → (mapSfi ro hz).isSome → (mapCh co c).isSome →
        ∃ d, exec (.build po p ro hz co c L) s = .next { s with rspValid := true, rspOk := true, rspData := d })

/-! ### The header -/

/-- R69, R70: where the three lookups and the frame length resolve, BUILD completes with a header whose thirteen fields
are the layout's, the constant ones at their fixed values, and changes nothing else. -/
def Obligations.BuildLaysOutEveryField : Prop :=
  ∀ (s : State) (po ro co : Bool) (p hz c L : Nat) (aot : BitVec 3) (sfi : BitVec 4) (ch : BitVec 3) (f : BitVec 13),
    mapAot po p = some aot → mapSfi ro hz = some sfi → mapCh co c = some ch → frameLen L = some f →
    ∃ H : RspData, exec (.build po p ro hz co c L) s =
        .next { s with rspValid := true, rspOk := true, rspData := H } ∧
      H.extractLsb' 44 12 = 0xFFF#12 ∧ H.extractLsb' 43 1 = 0#1 ∧ H.extractLsb' 41 2 = 0#2 ∧
      H.extractLsb' 40 1 = 1#1 ∧ (H.extractLsb' 38 2).toNat = aot.toNat - 1 ∧ H.extractLsb' 34 4 = sfi ∧
      H.extractLsb' 33 1 = 1#1 ∧ H.extractLsb' 32 1 = ch.extractLsb' 2 1 ∧
      H.extractLsb' 30 2 = ch.extractLsb' 0 2 ∧ H.extractLsb' 26 4 = 0xF#4 ∧ H.extractLsb' 13 13 = f ∧
      H.extractLsb' 2 11 = 0x7FF#11 ∧ H.extractLsb' 0 2 = 0#2 ∧
      headerByte H 0 = 0xFF#8 ∧ headerByte H 1 = 0xF1#8 ∧ headerByte H 6 = 0xFC#8

/-- BUILD on supported metadata (R59, R61, R63) and L ≤ 8184 completes, under either overflow policy, with the closed
form the spec derives in R76. Ten of the frequencies are general knowledge (log entry 9). -/
def Obligations.BuildAnswersTheClosedForm : Prop :=
  ∀ (s : State) (p k c L : Nat), 1 ≤ p → p ≤ 4 → k ≤ 12 → 1 ≤ c → c ≤ 7 → L ≤ 8184 →
    exec (.build true p true (sampleRates.getD k 0) true c L) s = .next { s with
      rspValid := true
      rspOk := true
      rspData := (0xFFF#56 <<< 44) ||| (1#56 <<< 40) ||| (BitVec.ofNat 56 (p - 1) <<< 38) |||
        (BitVec.ofNat 56 k <<< 34) ||| (1#56 <<< 33) ||| (BitVec.ofNat 56 c <<< 30) ||| (0xF#56 <<< 26) |||
        (BitVec.ofNat 56 (7 + L) <<< 13) ||| (0x7FF#56 <<< 2) }

/-- R75: BUILD is all or nothing: it writes either the complete header of all four steps' results with `rsp_ok` 1, when
they all succeed, or all zeros with `rsp_ok` 0, when any step fails; and a header is never all zeros. -/
def Obligations.BuildIsAllOrNothing : Prop :=
  ∀ (s : State) (po ro co : Bool) (p hz c L : Nat),
    ((mapAot po p).isSome ∧ (mapSfi ro hz).isSome ∧ (mapCh co c).isSome ∧ (frameLen L).isSome →
      ∃ aot sfi ch f, mapAot po p = some aot ∧ mapSfi ro hz = some sfi ∧ mapCh co c = some ch ∧ frameLen L = some f ∧
        exec (.build po p ro hz co c L) s =
          .next { s with rspValid := true, rspOk := true, rspData := packHeader aot sfi ch f } ∧
        packHeader aot sfi ch f ≠ 0) ∧
    (mapAot po p = none ∨ mapSfi ro hz = none ∨ mapCh co c = none ∨ frameLen L = none →
      exec (.build po p ro hz co c L) s = .next { s with rspValid := true, rspOk := false, rspData := 0 })

/-- Every header BUILD produces, on any input and under either policy, meets the constant mask the spec derives in R81,
and its top 16 bits are 0xFFF1 (R77, also derived). -/
def Obligations.EveryHeaderMeetsTheConstantMask : Prop :=
  ∀ (policy : FlOverflow) (po ro co : Bool) (p hz c L : Nat) (H : RspData),
    buildHeaderWith policy po p ro hz co c L = some H →
    H &&& 0xFFFF023C001FFF#56 = 0xFFF1023C001FFC#56 ∧ H.extractLsb' 40 16 = 0xFFF1#16

/-- The companion decoder the spec gives in R79 recovers the object type, the sample-rate index, the channel code and
7 + L from the header BUILD answers, for every supported input with L ≤ 8184; so the frame length is recovered from
bytes 3 to 5 (R78). The spec marks both rules as derived. -/
def Obligations.CompanionDecoderRecoversTheInputs : Prop :=
  ∀ (s : State) (p k c L : Nat), 1 ≤ p → p ≤ 4 → k ≤ 12 → 1 ≤ c → c ≤ 7 → L ≤ 8184 →
    ∃ H : RspData, exec (.build true p true (sampleRates.getD k 0) true c L) s =
        .next { s with rspValid := true, rspOk := true, rspData := H } ∧
      companionDecode H = (p, k, c, 7 + L)

/-- Under TRUNCATE the header of a frame that is too long carries (7 + L) mod 8192 (C6; R78, derived). -/
def Obligations.TruncatedHeaderCarriesTheLowBits : Prop :=
  ∀ (p k c L : Nat), 1 ≤ p → p ≤ 4 → k ≤ 12 → 1 ≤ c → c ≤ 7 → 8185 ≤ L →
    buildHeaderWith .reject true p true (sampleRates.getD k 0) true c L = none ∧
    ∃ H : RspData, buildHeaderWith .truncate true p true (sampleRates.getD k 0) true c L = some H ∧
      companionDecode H = (p, k, c, (7 + L) % 8192)

/-- The extractor splits the channel code 1 + 2 and the frame length 2 + 8 + 3 (R73, R74, which the spec derives). -/
def Obligations.ExtractorSplitsTheStraddlingFields : Prop :=
  (∀ (ch : BitVec 3) (h : InContract 8 6 6), (extract (ch.setWidth 8) 6 6 h).toNat = ch.toNat / 4) ∧
  (∀ (ch : BitVec 3) (h : InContract 8 7 8), (extract (ch.setWidth 8) 7 8 h).toNat = ch.toNat % 4) ∧
  (∀ (f : BitVec 16) (h : InContract 16 4 5), (extract f 4 5 h).toNat = f.toNat / 2 ^ 11 % 4) ∧
  (∀ (f : BitVec 16) (h : InContract 16 6 13), (extract f 6 13 h).toNat = f.toNat / 2 ^ 3 % 2 ^ 8) ∧
  (∀ (f : BitVec 16) (h : InContract 16 14 16), (extract f 14 16 h).toNat = f.toNat % 8)

/-! ### The assembler -/

/-- The assembler accepts a written request exactly where every value fits its field, and then gives the instruction of
that form with the request's own operands, a key being `none` or an identifier (R49); what it accepts is well formed and
decodes from its word. -/
def Obligations.AssembledWordsDecodeToTheirRequests : Prop :=
  (∀ (r : AsmRequest) (i : Instr), assemble r = some i →
    i.wellFormed = true ∧ assembleWord r = some (encode i) ∧ decode (encode i) = .ok i) ∧
  (∀ (v s e : Nat) (i : Instr), assemble (.ext8 v s e) = some i ↔
    (v ≤ 255 ∧ s ≤ 255 ∧ e ≤ 255) ∧ i = .ext8 (BitVec.ofNat 8 v) s e) ∧
  (∀ (v s e : Nat) (i : Instr), assemble (.ext16 v s e) = some i ↔
    (v ≤ 65535 ∧ s ≤ 255 ∧ e ≤ 255) ∧ i = .ext16 (BitVec.ofNat 16 v) s e) ∧
  (∀ (p : Option Nat) (i : Instr), assemble (.mapAot p) = some i ↔
    (∀ n ∈ p, n ≤ 31) ∧ i = .mapaot p.isSome (p.getD 0)) ∧
  (∀ (hz : Option Nat) (i : Instr), assemble (.mapSfi hz) = some i ↔
    (∀ n ∈ hz, n ≤ 262143) ∧ i = .mapsfi hz.isSome (hz.getD 0)) ∧
  (∀ (c : Option Nat) (i : Instr), assemble (.mapCh c) = some i ↔
    (∀ n ∈ c, n ≤ 15) ∧ i = .mapch c.isSome (c.getD 0)) ∧
  (∀ (l : Nat) (i : Instr), assemble (.flen l) = some i ↔ l ≤ 2 ^ 30 - 1 ∧ i = .flen l) ∧
  (∀ (p hz c : Option Nat) (l : Nat) (i : Instr), assemble (.build p hz c l) = some i ↔
    ((∀ n ∈ p, n ≤ 31) ∧ (∀ n ∈ hz, n ≤ 262143) ∧ (∀ n ∈ c, n ≤ 15) ∧ l ≤ 2 ^ 30 - 1) ∧
      i = .build p.isSome (p.getD 0) hz.isSome (hz.getD 0) c.isSome (c.getD 0) l)

/-- R50: the four pseudo-instructions are the requests they expand to. Wherever the value fits, the full-range ones
assemble and answer their operand, and the single-bit ones, at every position of their width, assemble and answer the
bit at that position counted from the MSB. -/
def Obligations.PseudoInstructionsExpand : Prop :=
  (∀ v, expandPseudo (.ext8All v) = .ext8 v 1 8) ∧ (∀ v, expandPseudo (.ext16All v) = .ext16 v 1 16) ∧
  (∀ v p, expandPseudo (.ext8Bit v p) = .ext8 v p p) ∧ (∀ v p, expandPseudo (.ext16Bit v p) = .ext16 v p p) ∧
  (∀ (s : State) (v : Nat), v ≤ 255 → ∃ i, assemble (expandPseudo (.ext8All v)) = some i ∧
    exec i s = .next { s with rspValid := true, rspOk := true, rspData := BitVec.ofNat 56 v }) ∧
  (∀ (s : State) (v : Nat), v ≤ 65535 → ∃ i, assemble (expandPseudo (.ext16All v)) = some i ∧
    exec i s = .next { s with rspValid := true, rspOk := true, rspData := BitVec.ofNat 56 v }) ∧
  (∀ (s : State) (v p : Nat), v ≤ 255 → 1 ≤ p → p ≤ 8 → ∃ i, assemble (expandPseudo (.ext8Bit v p)) = some i ∧
    exec i s = .next { s with
      rspValid := true
      rspOk := true
      rspData := BitVec.ofNat 56 (v / 2 ^ (8 - p) % 2) }) ∧
  (∀ (s : State) (v p : Nat), v ≤ 65535 → 1 ≤ p → p ≤ 16 → ∃ i, assemble (expandPseudo (.ext16Bit v p)) = some i ∧
    exec i s = .next { s with
      rspValid := true
      rspOk := true
      rspData := BitVec.ofNat 56 (v / 2 ^ (16 - p) % 2) })

/-! ### The invariant, and the whole machine -/

/-- The invariant holds right after reset. -/
def Obligations.InvariantHoldsAtReset : Prop := State.reset.Inv

/-- Every step keeps the invariant, from every state that has it: an absent result shows all zeros, a result is at most
16 bits wide or a header with its constant bits, and a recorded fault says what is true of the word it records. -/
def Obligations.EveryStepKeepsTheInvariant : Prop :=
  ∀ s t : State, s.Inv → step s = .next t → t.Inv

/-- Completing a request, from any state without a fault, does exactly what the closed forms of R55, R59, R61, R63, R66
and R76 say of its word: the machine's shifts, tables and byte packing refine them. -/
def Obligations.StepRefinesTheClosedForms : Prop :=
  ∀ (w : Word) (s : State), s.fault = none →
    step (placeRequest w s) = .next (applyAnswer (idealAnswer Config.flOverflow w) { s with inFlight := none })

/-! ### Runs (R106). The history of a run is read off its steps: log entry 19 -/

/-- The observation of every straight-line run is the sequence of its requests' own answers, in order (R35, R106): a run
from any state without a fault and with none in flight ends well exactly if no request faults, and then shows each
request's closed-form answer, whatever the state was; else it ends with the first fault. The closed-form answers rest on
ten general-knowledge frequencies (log entry 9). -/
def Obligations.RunObservationIsRequestByRequest : Prop :=
  ∀ (ws : List Word) (s : State), s.fault = none → s.inFlight = none →
    observeRun ws s = (ws.mapM (idealAnswer Config.flOverflow)).toOption ∧
    runEnds { s with schedule := straightLine ws } =
      [match ws.mapM (idealAnswer Config.flOverflow) with
        | .ok observation => .well observation
        | .error r => .faulted r]

/-- How runs end, over any schedule (R106). A run ends well exactly when FAULT is none and every presented request has
a response, and its observation is those responses in request order. An early read makes it end with UNWRITTEN_READ,
whatever follows in it, and presents nothing. A reset that cuts off an accepted request ends its run without an
observation. After a fault all turns up to a reset pass without effect, and the run that the reset ends keeps its fault.
A request accepted and not completed leaves the run incomplete; the block completes it once the schedule is empty
(R105). What the host's turns do across runs and past a fault is the model's choice (log entries 2, 10 and 19). -/
def Obligations.RunsEndAsTheirTurnsSay : Prop :=
  (∀ (s : State) (requests : List Presented) (observation : List Response),
    runEnd s requests = .well observation ↔
      s.fault = none ∧ requests.map Presented.response = observation.map some) ∧
  (∀ (k : Nat) (s : State) (h : RunHistory) (f : RspField) (rest : List Turn), s.fault = none → s.rspValid = false →
    s.schedule = .read f :: rest → f ≠ .valid → .reset ∉ rest.take k →
    (followRun (k + 1) s h).2 = h ∧
      runEnd (followRun (k + 1) s h).1 (followRun (k + 1) s h).2.current = .faulted (.unwrittenRead f)) ∧
  (∀ (s : State) (h : RunHistory) (w : Word) (rest : List Turn), s.fault = none → s.inFlight = some w →
    s.schedule = .reset :: rest → h.Accounts s →
    followRun 1 s h = ({ State.reset with schedule := rest }, ⟨h.past ++ [.incomplete], []⟩)) ∧
  (∀ (s : State) (h : RunHistory) (r : FaultRecord) (pre rest : List Turn), s.fault = some r →
    s.schedule = pre ++ .reset :: rest → .reset ∉ pre →
    followRun (pre.length + 1) s h = ({ State.reset with schedule := rest }, ⟨h.past ++ [.faulted r], []⟩)) ∧
  (∀ (s : State) (w : Word), s.fault = none → s.inFlight = none → s.schedule = [.present w] →
    runEnd (followRun 1 s (startHistory s)).1 (followRun 1 s (startHistory s)).2.current = .incomplete ∧
    runEnds s = runEnds { s with schedule := [.present w, .block] })

/-- Every step keeps a run's history in account (R35, R103): each presented request but the last has its own closed-form
answer as its response, in the order presented, and so has the last unless it is in flight or raised the recorded fault;
so no response comes unrequested, out of order or twice. The closed-form answers rest on ten general-knowledge
frequencies (log entry 9). -/
def Obligations.EveryStepKeepsTheHistoryInAccount : Prop :=
  ∀ (s t : State) (h : RunHistory), h.Accounts s → step s = .next t → (recordTurn s t h).Accounts t

/-- Over every schedule, after any number of turns from any state without a fault, the history accounts for every
request of the run it has reached; and where that run ends well, its observation is its requests' own closed-form
answers in order (R35, R106). The closed-form answers rest on ten general-knowledge frequencies (log entry 9). -/
def Obligations.EveryRunIsItsRequestsAnswers : Prop :=
  ∀ (k : Nat) (s : State), s.fault = none →
    (followRun k s (startHistory s)).2.Accounts (followRun k s (startHistory s)).1 ∧
    ∀ observation, runEnd (followRun k s (startHistory s)).1 (followRun k s (startHistory s)).2.current =
        .well observation →
      ((followRun k s (startHistory s)).2.current.map Presented.req).mapM (idealAnswer Config.flOverflow) =
        .ok observation
end

