-- ==== Sys2Proof/Laws/Values.lean ====
section
/-! SUPPORT. What the decoder's fields, the extractor primitive, the three lookups and the frame length are as
numbers. -/

namespace Sys2Proof

/-- A field is the slice of R7. -/
theorem field_eq (w : Word) (lo n : Nat) : field w lo n = w.toNat / 2 ^ lo % 2 ^ n := by
  simp [field, BitVec.extractLsb'_toNat, Nat.shiftRight_eq_div_pow]

theorem field_lt (w : Word) (lo n : Nat) : field w lo n < 2 ^ n := BitVec.isLt _

/-- A one-bit field is its bit. -/
theorem flag_toNat (w : Word) (i : Nat) : (flag w i).toNat = w.toNat / 2 ^ i % 2 := by
  simp [flag, BitVec.getLsbD, Nat.toNat_testBit]

/-- A bit as a test on the number. -/
theorem flag_eq (w : Word) (i : Nat) : flag w i = decide (w.toNat / 2 ^ i % 2 = 1) := by
  rw [← flag_toNat]
  cases flag w i <;> rfl

/-- The low bits of a word, as the extractor's operand. -/
theorem low_eq (w : Word) (n : Nat) : w.extractLsb' 0 n = BitVec.ofNat n w.toNat := by
  apply BitVec.eq_of_toNat_eq
  simp [BitVec.extractLsb'_toNat]

/-- The decoder as a chain of tests on the operation field (R48). -/
theorem decode_eq (w : Word) :
    decode w =
      if field w 60 4 = 1 then decodeExt8 w
      else if field w 60 4 = 2 then decodeExt16 w
      else if field w 60 4 = 3 then .ok (.mapaot (flag w 59) (field w 54 5))
      else if field w 60 4 = 4 then .ok (.mapsfi (flag w 53) (field w 35 18))
      else if field w 60 4 = 5 then .ok (.mapch (flag w 34) (field w 30 4))
      else if field w 60 4 = 6 then .ok (.flen (field w 0 30))
      else if field w 60 4 = 7 then
        .ok (.build (flag w 59) (field w 54 5) (flag w 53) (field w 35 18) (flag w 34) (field w 30 4) (field w 0 30))
      else .error .illegalOp := by
  unfold decode
  have := field_lt w 60 4
  generalize field w 60 4 = k at *
  interval_cases k <;> rfl

/-- What a well-formed instruction says, as a proposition. -/
theorem wellFormed_build {po ro co : Bool} {p hz c l : Nat} :
    (Instr.build po p ro hz co c l).wellFormed = true ↔ p < 2 ^ 5 ∧ hz < 2 ^ 18 ∧ c < 2 ^ 4 ∧ l < 2 ^ 30 := by
  simp [Instr.wellFormed, and_assoc]

end Sys2Proof

namespace Sys2Proof.Machine

/-- The first two steps of the extractor clear the bits above position `s` (R52, R55). -/
theorem extract_toNat {W : Nat} (v : BitVec W) (s e : Nat) (h : InContract W s e) :
    (extract v s e h).toNat = v.toNat % 2 ^ (W - s + 1) / 2 ^ (W - e) := by
  obtain ⟨h1, h2, -, -⟩ := h
  have hW : 2 ^ W = 2 ^ (s - 1) * 2 ^ (W - s + 1) := by
    rw [← Nat.pow_add]
    congr 1
    omega
  have hpos : 0 < 2 ^ (s - 1) := Nat.two_pow_pos _
  simp only [extract, BitVec.toNat_ushiftRight, BitVec.toNat_shiftLeft, Nat.shiftRight_eq_div_pow, Nat.shiftLeft_eq]
  rw [hW, Nat.mul_comm v.toNat, Nat.mul_mod_mul_left, Nat.mul_div_cancel_left _ hpos]

/-- The object type codes are 1 to 4, each the identifier itself (R59). -/
theorem mapAot_eq (ok : Bool) (id : Nat) :
    mapAot ok id = if ok = true ∧ 1 ≤ id ∧ id ≤ 4 then some (BitVec.ofNat 3 id) else none := by
  cases ok
  · simp [mapAot, lookupCode]
  by_cases h : 1 ≤ id ∧ id ≤ 4
  · obtain ⟨h1, h2⟩ := h
    interval_cases id <;> rfl
  · have : id ≠ 1 ∧ id ≠ 2 ∧ id ≠ 3 ∧ id ≠ 4 := by omega
    simp_all [mapAot, lookupCode, aotTable, profileId, List.lookup, beq_false_of_ne]

/-- The channel configuration codes are 1 to 7, each the identifier itself (R63). -/
theorem mapCh_eq (ok : Bool) (id : Nat) :
    mapCh ok id = if ok = true ∧ 1 ≤ id ∧ id ≤ 7 then some (BitVec.ofNat 3 id) else none := by
  cases ok
  · simp [mapCh, lookupCode]
  by_cases h : 1 ≤ id ∧ id ≤ 7
  · obtain ⟨h1, h2⟩ := h
    interval_cases id <;> rfl
  · have : id ≠ 1 ∧ id ≠ 2 ∧ id ≠ 3 ∧ id ≠ 4 ∧ id ≠ 5 ∧ id ≠ 6 ∧ id ≠ 7 := by omega
    simp_all [mapCh, lookupCode, chTable, layoutId, List.lookup, beq_false_of_ne]

/-- The frame length below the bound, under either policy (R66). -/
theorem frameLenWith_fits (policy : FlOverflow) {L : Nat} (h : L ≤ 8184) :
    frameLenWith policy L = some (BitVec.ofNat 13 (7 + L)) := by
  have : 7 + L ≤ 8191 := by omega
  simp [frameLenWith, this]

/-- The frame length above the bound (R66). -/
theorem frameLenWith_over (policy : FlOverflow) {L : Nat} (h : 8184 < L) :
    frameLenWith policy L = if policy = .truncate then some (BitVec.ofNat 13 (7 + L)) else none := by
  have : ¬ 7 + L ≤ 8191 := by omega
  cases policy <;> simp [frameLenWith, this]

end Sys2Proof.Machine
end

