-- ==== Sys2Proof/Laws/Header.lean ====
section
/-! SUPPORT. The header's bytes as numbers, and the header as the sum of its fields. -/

namespace Sys2Proof.Machine

/-- Two bit groups that do not overlap: OR is addition. -/
theorem byte_or_eq_add (x y : Byte) (k : Nat) (hx : x.toNat % 2 ^ k = 0) (hy : y.toNat < 2 ^ k) :
    (x ||| y).toNat = x.toNat + y.toNat := by
  have h := Nat.two_pow_add_eq_or_of_lt hy (x.toNat / 2 ^ k)
  have hdiv : 2 ^ k * (x.toNat / 2 ^ k) = x.toNat := Nat.mul_div_cancel' (Nat.dvd_of_mod_eq_zero hx)
  rw [hdiv] at h
  rw [BitVec.toNat_or, ← h]

/-- The channel code's high bit (R73). -/
theorem extract_ch_high (ch : BitVec 3) (h : InContract 8 6 6) :
    (extract (ch.setWidth 8) 6 6 h).toNat = ch.toNat / 4 := by
  have := ch.isLt
  rw [extract_toNat, BitVec.toNat_setWidth]
  omega

/-- The channel code's low two bits (R73). -/
theorem extract_ch_low (ch : BitVec 3) (h : InContract 8 7 8) :
    (extract (ch.setWidth 8) 7 8 h).toNat = ch.toNat % 4 := by
  have := ch.isLt
  rw [extract_toNat, BitVec.toNat_setWidth]
  omega

/-- Byte 2 as a number (R69). -/
theorem headerByte2_toNat (aot : BitVec 3) (sfi : BitVec 4) (ch : BitVec 3) (ha : 1 ≤ aot.toNat ∧ aot.toNat ≤ 4) :
    (headerByte2 aot sfi ch).toNat = (aot.toNat - 1) * 64 + sfi.toNat * 4 + 2 + ch.toNat / 4 := by
  have hc := ch.isLt
  have hs := sfi.isLt
  have h1 : ((aot - 1).setWidth 8 <<< 6).toNat = (aot.toNat - 1) * 64 := by
    revert ha
    revert aot
    decide
  have h2 : (sfi.setWidth 8 <<< 2).toNat = sfi.toNat * 4 := by
    simp [BitVec.toNat_shiftLeft, BitVec.toNat_setWidth, Nat.shiftLeft_eq]
    omega
  have h3 : (1#8 <<< 1).toNat = 2 := rfl
  have h4 := extract_ch_high ch (by decide)
  unfold headerByte2
  rw [byte_or_eq_add _ _ 1, byte_or_eq_add _ _ 2, byte_or_eq_add _ _ 6, h1, h2, h3, h4]
  · rw [h1]; omega
  · rw [h2]; omega
  · rw [byte_or_eq_add _ _ 6 (by rw [h1]; omega) (by rw [h2]; omega), h1, h2]; omega
  · rw [h3]; omega
  · rw [byte_or_eq_add _ _ 2 _ (by rw [h3]; omega), byte_or_eq_add _ _ 6 (by rw [h1]; omega) (by rw [h2]; omega), h1, h2, h3]
    · omega
    · rw [byte_or_eq_add _ _ 6 (by rw [h1]; omega) (by rw [h2]; omega), h1, h2]; omega
  · rw [h4]; omega

/-- Byte 3 as a number (R69). -/
theorem headerByte3_toNat (ch : BitVec 3) (f : BitVec 13) :
    (headerByte3 ch f).toNat = ch.toNat % 4 * 64 + 60 + f.toNat / 2 ^ 11 := by
  have hf := f.isLt
  have h1 : (extract (ch.setWidth 8) 7 8 (by decide) <<< 6).toNat = ch.toNat % 4 * 64 := by
    rw [BitVec.toNat_shiftLeft, extract_ch_low, Nat.shiftLeft_eq]
    omega
  have h2 : (0b1111#8 <<< 2).toNat = 60 := rfl
  have h3 : ((extract (f.setWidth 16) 4 5 (by decide)).setWidth 8).toNat = f.toNat / 2 ^ 11 := by
    rw [BitVec.toNat_setWidth, extract_toNat, BitVec.toNat_setWidth]
    omega
  unfold headerByte3
  rw [byte_or_eq_add _ _ 2, byte_or_eq_add _ _ 6, h1, h2, h3]
  · rw [h1]; omega
  · rw [h2]; omega
  · rw [byte_or_eq_add _ _ 6 (by rw [h1]; omega) (by rw [h2]; omega), h1, h2]; omega
  · rw [h3]; omega

/-- Byte 4 as a number (R69). -/
theorem headerByte4_toNat (f : BitVec 13) : (headerByte4 f).toNat = f.toNat / 2 ^ 3 % 2 ^ 8 := by
  have hf := f.isLt
  rw [headerByte4, BitVec.toNat_setWidth, extract_toNat, BitVec.toNat_setWidth]
  omega

/-- Byte 5 as a number (R69). -/
theorem headerByte5_toNat (f : BitVec 13) : (headerByte5 f).toNat = f.toNat % 8 * 32 + 31 := by
  have hf := f.isLt
  have h1 : ((extract (f.setWidth 16) 14 16 (by decide)).setWidth 8 <<< 5).toNat = f.toNat % 8 * 32 := by
    rw [BitVec.toNat_shiftLeft, BitVec.toNat_setWidth, extract_toNat, BitVec.toNat_setWidth, Nat.shiftLeft_eq]
    omega
  have h2 : (0b11111#8).toNat = 31 := rfl
  unfold headerByte5
  rw [byte_or_eq_add _ _ 5, h1, h2]
  · rw [h1]; omega
  · rw [h2]; omega

/-- The header as the sum of its fields, for every object type code 1 to 4 (R69). -/
theorem packHeader_toNat (aot : BitVec 3) (sfi : BitVec 4) (ch : BitVec 3) (f : BitVec 13)
    (ha : 1 ≤ aot.toNat ∧ aot.toNat ≤ 4) :
    (packHeader aot sfi ch f).toNat =
      0xFFF * 2 ^ 44 + 2 ^ 40 + (aot.toNat - 1) * 2 ^ 38 + sfi.toNat * 2 ^ 34 + 2 ^ 33 + ch.toNat * 2 ^ 30
        + 0xF * 2 ^ 26 + f.toNat * 2 ^ 13 + 0x7FF * 2 ^ 2 := by
  have hs := sfi.isLt
  have hc := ch.isLt
  have hf := f.isLt
  have h0 : (0xFF : Byte).toNat = 0xFF := rfl
  have h1 : (0xF1 : Byte).toNat = 0xF1 := rfl
  have h6 : (0xFC : Byte).toNat = 0xFC := rfl
  rw [packHeader, joinBytes, BitVec.toNat_ofNat, headerByte2_toNat _ _ _ ha, headerByte3_toNat, headerByte4_toNat,
    headerByte5_toNat, h0, h1, h6]
  omega

end Sys2Proof.Machine
end

