-- ==== Sys2Proof/Laws/State.lean ====
section
/-! SUPPORT. One lemma per field for each named operation, and for each operation the one lemma that says all it can
do. -/

namespace Sys2Proof.Machine

@[simp] theorem respond_rspValid (ok : Bool) (d : RspData) (s : State) : (respond ok d s).rspValid = true := rfl
@[simp] theorem respond_rspOk (ok : Bool) (d : RspData) (s : State) : (respond ok d s).rspOk = ok := rfl
@[simp] theorem respond_rspData (ok : Bool) (d : RspData) (s : State) : (respond ok d s).rspData = d := rfl
@[simp] theorem respond_fault (ok : Bool) (d : RspData) (s : State) : (respond ok d s).fault = s.fault := rfl
@[simp] theorem respond_inFlight (ok : Bool) (d : RspData) (s : State) : (respond ok d s).inFlight = s.inFlight := rfl
@[simp] theorem respond_schedule (ok : Bool) (d : RspData) (s : State) : (respond ok d s).schedule = s.schedule := rfl

@[simp] theorem popTurn_rspValid (s : State) : (popTurn s).rspValid = s.rspValid := rfl
@[simp] theorem popTurn_rspOk (s : State) : (popTurn s).rspOk = s.rspOk := rfl
@[simp] theorem popTurn_rspData (s : State) : (popTurn s).rspData = s.rspData := rfl
@[simp] theorem popTurn_fault (s : State) : (popTurn s).fault = s.fault := rfl
@[simp] theorem popTurn_inFlight (s : State) : (popTurn s).inFlight = s.inFlight := rfl
@[simp] theorem popTurn_schedule (s : State) : (popTurn s).schedule = s.schedule.tail := rfl

@[simp] theorem placeRequest_rspValid (w : Word) (s : State) : (placeRequest w s).rspValid = s.rspValid := rfl
@[simp] theorem placeRequest_rspOk (w : Word) (s : State) : (placeRequest w s).rspOk = s.rspOk := rfl
@[simp] theorem placeRequest_rspData (w : Word) (s : State) : (placeRequest w s).rspData = s.rspData := rfl
@[simp] theorem placeRequest_fault (w : Word) (s : State) : (placeRequest w s).fault = s.fault := rfl
@[simp] theorem placeRequest_inFlight (w : Word) (s : State) : (placeRequest w s).inFlight = some w := rfl
@[simp] theorem placeRequest_schedule (w : Word) (s : State) :
    (placeRequest w s).schedule = .block :: s.schedule := rfl

@[simp] theorem applyReset_rspValid (s : State) : (applyReset s).rspValid = false := rfl
@[simp] theorem applyReset_fault (s : State) : (applyReset s).fault = none := rfl
@[simp] theorem applyReset_inFlight (s : State) : (applyReset s).inFlight = none := rfl
@[simp] theorem applyReset_schedule (s : State) : (applyReset s).schedule = s.schedule := rfl

/-- All a raised fault does: `FAULT` takes the record where it held none (R23), and nothing else changes (R89). -/
theorem raiseFault_eq (r : FaultRecord) (s : State) :
    raiseFault r s = { s with fault := s.fault.or (some r) } := by
  rcases s with ⟨v, o, d, f, q, t⟩
  cases f <;> rfl

@[simp] theorem raiseFault_rspValid (r : FaultRecord) (s : State) : (raiseFault r s).rspValid = s.rspValid := by
  rw [raiseFault_eq]
@[simp] theorem raiseFault_rspOk (r : FaultRecord) (s : State) : (raiseFault r s).rspOk = s.rspOk := by
  rw [raiseFault_eq]
@[simp] theorem raiseFault_rspData (r : FaultRecord) (s : State) : (raiseFault r s).rspData = s.rspData := by
  rw [raiseFault_eq]
@[simp] theorem raiseFault_fault (r : FaultRecord) (s : State) : (raiseFault r s).fault = s.fault.or (some r) := by
  rw [raiseFault_eq]
@[simp] theorem raiseFault_inFlight (r : FaultRecord) (s : State) : (raiseFault r s).inFlight = s.inFlight := by
  rw [raiseFault_eq]
@[simp] theorem raiseFault_schedule (r : FaultRecord) (s : State) : (raiseFault r s).schedule = s.schedule := by
  rw [raiseFault_eq]

/-- All a response to a FAIL does (R22). -/
theorem respondResult_none {w : Nat} (s : State) :
    respondResult (none : Option (BitVec w)) s = { s with rspValid := true, rspOk := false, rspData := 0 } := rfl

/-- All a response to a result does (R51). -/
theorem respondResult_some {w : Nat} (r : BitVec w) (s : State) :
    respondResult (some r) s = { s with rspValid := true, rspOk := true, rspData := r.setWidth 56 } := rfl

/-- All a host read does: nothing, or the record of UNWRITTEN_READ before the first response (R20, R25). -/
theorem hostRead_cases (f : RspField) (s : State) :
    hostRead f s = s ∨ (s.rspValid = false ∧ f ≠ .valid ∧ hostRead f s = raiseFault (.unwrittenRead f) s) := by
  cases f <;> cases h : s.rspValid <;> simp [hostRead, h]

/-- All an acceptance does (R103). -/
theorem acceptRequest_cases (w : Word) (s : State) :
    (s.inFlight = none ∧ acceptRequest w s = .next { s with inFlight := some w }) ∨
    (s.inFlight.isSome ∧ acceptRequest w s = .refused (.requestWhileInFlight w)) := by
  cases h : s.inFlight <;> simp [acceptRequest, h]

/-- Once a fault is recorded, the machine is halted on every turn but a reset (R93). -/
theorem fetch_halted {s : State} {r : FaultRecord} (hf : s.fault = some r) (ht : currentTurn s ≠ .reset) :
    fetch s = .settled (.fault (.halted r)) := by
  unfold fetch
  rw [hf]
  cases h : currentTurn s <;> simp_all

/-- A reset gets through in every state (R94, R99). -/
theorem fetch_reset {s : State} (ht : currentTurn s = .reset) : fetch s = .settled (.next (applyReset (popTurn s))) := by
  unfold fetch
  rw [ht]
  cases s.fault <;> rfl

/-- With no fault recorded, the turn is taken (R12). -/
theorem fetch_running {s : State} (hf : s.fault = none) : fetch s = takeTurn (currentTurn s) (popTurn s) := by
  unfold fetch
  rw [hf]

end Sys2Proof.Machine
end

