-- ==== Sys2Proof/Laws/Meanings.lean ====
section
/-! SUPPORT. What the shared meanings do: the extractor's inside and outside its contract, and the header builder's by
its four steps. -/

namespace Sys2Proof.Machine

/-- Inside the contract the extractor responds (R53, R54). -/
theorem extractRequest_inside {W : Nat} (v : BitVec W) {s e : Nat} (req : Word) (st : State) (h : InContract W s e) :
    extractRequest v s e req st = respond true ((extract v s e h).setWidth 56) st := dif_pos h

/-- Outside it, it raises EXTRACT_RANGE (R58, R86). -/
theorem extractRequest_outside {W : Nat} (v : BitVec W) {s e : Nat} (req : Word) (st : State)
    (h : ¬ InContract W s e) :
    extractRequest v s e req st = raiseFault (.extractRange req s e W) st := dif_neg h

/-- The builder succeeds exactly when its four steps do, and then packs their results (R71). -/
theorem buildHeaderWith_eq_some {policy : FlOverflow} {po ro co : Bool} {p hz c L : Nat} {H : RspData} :
    buildHeaderWith policy po p ro hz co c L = some H ↔
      ∃ aot sfi ch f, mapAot po p = some aot ∧ mapSfi ro hz = some sfi ∧ mapCh co c = some ch ∧
        frameLenWith policy L = some f ∧ packHeader aot sfi ch f = H := by
  unfold buildHeaderWith
  cases mapAot po p <;> cases mapSfi ro hz <;> cases mapCh co c <;> cases frameLenWith policy L <;> simp

end Sys2Proof.Machine
end

