-- ==== Sys2Proof/Laws/PerInstr.lean ====
section
/-! SUPPORT. Per instruction: the word of a well-formed instruction carries its operation field (R39), and a Format X
word has its reserved bits zero (R45). -/

namespace Sys2Proof.Laws.OpField

/-- The operation field and the reserved bits of the encoded word. -/
def Statement (i : Instr) : Prop :=
  i.wellFormed = true →
    field (encode i) 60 4 = opField i ∧
      (opField i ≤ 2 → field (encode i) 32 28 = 0) ∧ (opField i = 1 → field (encode i) 8 8 = 0)

theorem ext8 (v : BitVec 8) (s e : Nat) : Statement (.ext8 v s e) := by
  intro h
  have := v.isLt
  simp [Instr.wellFormed] at h
  simp only [field_eq, encode, formatX, opField, BitVec.toNat_ofNat]
  omega

theorem ext16 (v : BitVec 16) (s e : Nat) : Statement (.ext16 v s e) := by
  intro h
  have := v.isLt
  simp [Instr.wellFormed] at h
  simp only [field_eq, encode, formatX, opField, BitVec.toNat_ofNat]
  omega

theorem mapaot (ok : Bool) (p : Nat) : Statement (.mapaot ok p) := by
  intro h
  have := ok.toNat_le
  simp [Instr.wellFormed] at h
  simp only [field_eq, encode, formatH, opField, BitVec.toNat_ofNat, Bool.toNat_false]
  omega

theorem mapsfi (ok : Bool) (hz : Nat) : Statement (.mapsfi ok hz) := by
  intro h
  have := ok.toNat_le
  simp [Instr.wellFormed] at h
  simp only [field_eq, encode, formatH, opField, BitVec.toNat_ofNat, Bool.toNat_false]
  omega

theorem mapch (ok : Bool) (c : Nat) : Statement (.mapch ok c) := by
  intro h
  have := ok.toNat_le
  simp [Instr.wellFormed] at h
  simp only [field_eq, encode, formatH, opField, BitVec.toNat_ofNat, Bool.toNat_false]
  omega

theorem flen (l : Nat) : Statement (.flen l) := by
  intro h
  simp [Instr.wellFormed] at h
  simp only [field_eq, encode, formatH, opField, BitVec.toNat_ofNat, Bool.toNat_false]
  omega

theorem build (po : Bool) (p : Nat) (ro : Bool) (hz : Nat) (co : Bool) (c l : Nat) :
    Statement (.build po p ro hz co c l) := by
  intro h
  have := po.toNat_le
  have := ro.toNat_le
  have := co.toNat_le
  rw [wellFormed_build] at h
  simp only [field_eq, encode, formatH, opField, BitVec.toNat_ofNat]
  omega

end Sys2Proof.Laws.OpField
end

