-- ==== Sys2Proof/Laws/Step.lean ====
section
/-! SUPPORT. What a step can do, said once: by the turn, and for a request placed in flight. -/

namespace Sys2Proof.Machine

/-- A request placed in flight, from a state without a fault, is decoded and run, or its fault raised (R12, R48). -/
theorem step_placeRequest (w : Word) {s : State} (hf : s.fault = none) :
    step (placeRequest w s) =
      match decode w with
      | .ok i => exec i { s with inFlight := none }
      | .error e => .next (raiseFault (decodeFault w e) { s with inFlight := none }) := by
  have hfetch : fetch (placeRequest w s) = decodeRequest w { s with inFlight := none } := by
    rw [fetch_running (by simpa using hf)]
    rfl
  rw [step, hfetch, decodeRequest]
  cases decode w <;> rfl

/-- Everything a step to a next state can be: a reset; or, with no fault recorded, an acceptance, a host read, an idle
turn of the block, a refused word's fault, or an instruction run. -/
theorem step_cases {s t : State} (h : step s = .next t) :
    (currentTurn s = .reset ∧ t = applyReset (popTurn s)) ∨
    (s.fault = none ∧
      ((∃ w, currentTurn s = .present w ∧ s.inFlight = none ∧ t = { popTurn s with inFlight := some w }) ∨
       (∃ f, currentTurn s = .read f ∧ t = hostRead f (popTurn s)) ∨
       (currentTurn s = .block ∧ s.inFlight = none ∧ t = popTurn s) ∨
       (∃ w e, currentTurn s = .block ∧ s.inFlight = some w ∧ decode w = .error e ∧
          t = raiseFault (decodeFault w e) { popTurn s with inFlight := none }) ∨
       (∃ w i, currentTurn s = .block ∧ s.inFlight = some w ∧ decode w = .ok i ∧
          exec i { popTurn s with inFlight := none } = .next t))) := by
  by_cases hr : currentTurn s = .reset
  · rw [step, fetch_reset hr] at h
    exact .inl ⟨hr, by injection h with h; exact h.symm⟩
  right
  cases hf : s.fault with
  | some r => simp [step, fetch_halted hf hr] at h
  | none =>
    refine ⟨rfl, ?_⟩
    rw [step, fetch_running hf] at h
    cases ht : currentTurn s with
    | reset => exact absurd ht hr
    | present w =>
      rcases acceptRequest_cases w (popTurn s) with ⟨hn, ha⟩ | ⟨-, ha⟩
      · simp only [ht, takeTurn, ha] at h
        injection h with h
        exact .inl ⟨w, rfl, hn, h.symm⟩
      · simp [ht, takeTurn, ha] at h
    | read f =>
      simp only [ht, takeTurn] at h
      injection h with h
      exact .inr (.inl ⟨f, rfl, h.symm⟩)
    | block =>
      right; right
      cases hq : s.inFlight with
      | none =>
        simp only [ht, takeTurn, blockTurn, popTurn_inFlight, hq] at h
        injection h with h
        exact .inl ⟨rfl, rfl, h.symm⟩
      | some w =>
        simp only [ht, takeTurn, blockTurn, popTurn_inFlight, hq, decodeRequest] at h
        cases hd : decode w with
        | error e =>
          rw [hd] at h
          injection h with h
          exact .inr (.inl ⟨w, e, rfl, rfl, hd, h.symm⟩)
        | ok i =>
          rw [hd] at h
          exact .inr (.inr ⟨w, i, rfl, rfl, hd, h⟩)

end Sys2Proof.Machine
end

