-- ==== Sys2Proof/Laws/Run.lean ====
section
/-! SUPPORT. What each turn adds to a run's history, and how a run is followed through each outcome of a step. -/

namespace Sys2Proof.Machine

@[simp] theorem response_respond (ok : Bool) (d : RspData) (s : State) : response (respond ok d s) = some (ok, d) := rfl

@[simp] theorem runEnd_faulted {s : State} {r : FaultRecord} (hf : s.fault = some r) (ps : List Presented) :
    runEnd s ps = .faulted r := by
  simp [runEnd, hf]

@[simp] theorem startHistory_idle {s : State} (hq : s.inFlight = none) : startHistory s = ⟨[], []⟩ := by
  simp [startHistory, hq]

@[simp] theorem startHistory_inFlight {s : State} {w : Word} (hq : s.inFlight = some w) :
    startHistory s = ⟨[], [⟨w, none⟩]⟩ := by
  simp [startHistory, hq]

theorem recordTurn_reset {s : State} (ht : currentTurn s = .reset) (t : State) (h : RunHistory) :
    recordTurn s t h = ⟨h.past ++ [runEnd s h.current], []⟩ := by
  simp [recordTurn, ht]

theorem recordTurn_present {s : State} {w : Word} (ht : currentTurn s = .present w) (t : State) (h : RunHistory) :
    recordTurn s t h = ⟨h.past, h.current ++ [⟨w, none⟩]⟩ := by
  simp [recordTurn, ht]

theorem recordTurn_read {s : State} {f : RspField} (ht : currentTurn s = .read f) (t : State) (h : RunHistory) :
    recordTurn s t h = h := by
  simp [recordTurn, ht]

theorem recordTurn_idle {s : State} (ht : currentTurn s = .block) (hq : s.inFlight = none) (t : State)
    (h : RunHistory) : recordTurn s t h = h := by
  simp [recordTurn, ht, hq]

theorem recordTurn_block {s : State} {w : Word} (ht : currentTurn s = .block) (hq : s.inFlight = some w) (t : State)
    (h : RunHistory) : recordTurn s t h = ⟨h.past, recordCompletion t w h.current⟩ := by
  simp [recordTurn, ht, hq]

/-- All a completing turn records: nothing where it raised a fault, else the response of the last request. -/
theorem recordCompletion_cases (t : State) (w : Word) (ps : List Presented) :
    (t.fault.isSome ∧ recordCompletion t w ps = ps) ∨
    (t.fault = none ∧ recordCompletion t w ps = ps.dropLast ++ [⟨w, response t⟩]) := by
  cases h : t.fault <;> simp [recordCompletion, h]

@[simp] theorem followRun_zero (s : State) (h : RunHistory) : followRun 0 s h = (s, h) := rfl

theorem followRun_next {s t : State} (hs : step s = .next t) (k : Nat) (h : RunHistory) :
    followRun (k + 1) s h = followRun k t (recordTurn s t h) := by
  simp [followRun, hs]

/-- A turn that meets a halted block passes without effect (R93). -/
theorem followRun_halted {s : State} {r : FaultRecord} (hf : s.fault = some r) (ht : currentTurn s ≠ .reset) (k : Nat)
    (h : RunHistory) : followRun (k + 1) s h = followRun k (popTurn s) h := by
  simp [followRun, step, fetch_halted hf ht]

/-- A reset ends the run it cuts off, and the next one starts with no request (R99). -/
theorem followRun_reset {s : State} (ht : currentTurn s = .reset) (k : Nat) (h : RunHistory) :
    followRun (k + 1) s h = followRun k (applyReset (popTurn s)) ⟨h.past ++ [runEnd s h.current], []⟩ := by
  rw [followRun_next (t := applyReset (popTurn s)) (by simp [step, fetch_reset ht]), recordTurn_reset ht]

theorem followRun_refused {s : State} {r : Refusal} (hs : step s = .refused r) (k : Nat) (h : RunHistory) :
    followRun k s h = (s, h) := by
  cases k <;> simp [followRun, hs]

end Sys2Proof.Machine
end

