-- ==== Sys2Proof/Tests/Slice0.lean ====
section
/-! SUPPORT. Tests from the vectors of spec/95_test_vectors.md, the checks of WellFormed, and for each statement that
has hypotheses a witness that meets them. -/

namespace Sys2Proof.Tests

open Sys2Proof.Machine

/-! ### Helpers -/

/-- A state that holds an earlier response, with nothing in flight. -/
def held : State := { State.reset with rspValid := true, rspOk := true, rspData := 0x6B }

/-- What a step shows: `rsp_valid`, `rsp_ok`, `rsp_data` and the fault record. -/
def shown (o : StepOutcome) : Option (Bool × Bool × RspData × Option FaultRecord) :=
  match o with
  | .next t => some (t.rspValid, t.rspOk, t.rspData, t.fault)
  | _ => none

/-- The step that completes a request from `held`. -/
def answer (w : Word) : Option (Bool × Bool × RspData × Option FaultRecord) := shown (step (placeRequest w held))

/-! ### WellFormed: one ill-formed term for each check, and a term at the fields' maxima -/

theorem test_wf_ext8_start : (Instr.ext8 0 256 1).wellFormed = false := by decide
theorem test_wf_ext8_stop : (Instr.ext8 0 1 256).wellFormed = false := by decide
theorem test_wf_ext16_start : (Instr.ext16 0 256 1).wellFormed = false := by decide
theorem test_wf_ext16_stop : (Instr.ext16 0 1 256).wellFormed = false := by decide
theorem test_wf_mapaot : (Instr.mapaot true 32).wellFormed = false := by decide
theorem test_wf_mapsfi : (Instr.mapsfi true 262144).wellFormed = false := by decide
theorem test_wf_mapch : (Instr.mapch true 16).wellFormed = false := by decide
theorem test_wf_flen : (Instr.flen 1073741824).wellFormed = false := by decide
theorem test_wf_build_prof : (Instr.build true 32 true 0 true 0 0).wellFormed = false := by decide
theorem test_wf_build_rate : (Instr.build true 0 true 262144 true 0 0).wellFormed = false := by decide
theorem test_wf_build_chan : (Instr.build true 0 true 0 true 16 0).wellFormed = false := by decide
theorem test_wf_build_len : (Instr.build true 0 true 0 true 0 1073741824).wellFormed = false := by decide
theorem test_wf_maxima : (Instr.build true 31 true 262143 true 15 1073741823).wellFormed = true := by decide

/-! ### Decode: words written out bit by bit from Formats X and H (R40, R41), and 95_test_vectors.md -/

/-- `op` 0001, 28 reserved zeros, start 00000001, end 00000100, eight zeros, value 10101100 (V-EXT8). -/
theorem test_decode_ext8_bits :
    decode 0b0001000000000000000000000000000000000001000001000000000010101100 = .ok (.ext8 0xAC 1 4) := by decide
/-- `op` 0010, 28 reserved zeros, start 00000110, end 00001101, value 0x006B (V-EXT16). -/
theorem test_decode_ext16_bits :
    decode 0b0010000000000000000000000000000000000110000011010000000001101011 = .ok (.ext16 0x6B 6 13) := by decide
/-- `op` 0011, prof_ok 1, prof_id 00010, and every other field of the W4 word, ignored (V-MAPAOT). -/
theorem test_decode_mapaot_bits :
    decode 0b0011100010100101011000100010010010000000000000000000000001100100 = .ok (.mapaot true 2) := by decide
/-- `op` 0100, rate_ok 1, rate_hz 44100 = 001010110001000100 (V-MAPSFI). -/
theorem test_decode_mapsfi_bits :
    decode 0b0100000000100101011000100010000000000000000000000000000000000000 = .ok (.mapsfi true 44100) := by decide
/-- `op` 0101, chan_ok 1, chan_id 0111 (V-MAPCH). -/
theorem test_decode_mapch_bits :
    decode 0b0101000000000000000000000000010111000000000000000000000000000000 = .ok (.mapch true 7) := by decide
/-- `op` 0110, payload_len 1100100 (V-FLEN). -/
theorem test_decode_flen_bits :
    decode 0b0110000000000000000000000000000000000000000000000000000001100100 = .ok (.flen 100) := by decide
/-- `op` 0111 and the fields of W4 (V-BUILD). -/
theorem test_decode_build_bits :
    decode 0b0111100010100101011000100010010010000000000000000000000001100100 =
      .ok (.build true 2 true 44100 true 2 100) := by decide
/-- V-EXT8 and V-EXT16: reserved bits. V-DECODE: unassigned ops. -/
theorem test_decode_refusals :
    decode 0x10000000010412AC = .error .reservedNonzero ∧ decode 0x10000001010400AC = .error .reservedNonzero ∧
      decode 0x280000000110ABCD = .error .reservedNonzero ∧ decode 0x8000000000000000 = .error .illegalOp ∧
      decode 0x09000000001040AC = .error .illegalOp := by decide
/-- The encoder against the words of V-BUILD, V-MAPSFI and V-EXT16. -/
theorem test_encode_words :
    encode (.build true 4 true 7350 true 7 8184) = 0x7920E5B5C0001FF8 ∧
      encode (.mapsfi true 7350) = 0x4020E5B000000000 ∧ encode (.ext16 0xABCD 13 16) = 0x200000000D10ABCD := by decide
theorem test_table_word : decodeTableWord 64 0x3900000000000000 = some (.mapaot true 4) := by decide

/-! ### One step of each operation -/

/-- W2: the source's own example. -/
theorem test_ext8_literal : answer 0x10000000010400AC = some (true, true, 0x0A, none) := by decide
/-- V-EXT8: start 0 faults, and the earlier response stays (R89). -/
theorem test_ext8_range :
    answer 0x10000000000400AC = some (true, true, 0x6B, some (.extractRange 0x10000000000400AC 0 4 8)) := by decide
/-- V-EXT16: the width term is 16. -/
theorem test_ext16_low : answer 0x200000000E10006B = some (true, true, 3, none) := by decide
/-- V-EXT16: end 17 faults. -/
theorem test_ext16_range :
    answer 0x200000000111ABCD = some (true, true, 0x6B, some (.extractRange 0x200000000111ABCD 1 17 16)) := by decide
/-- V-MAPAOT: LTP, and an identifier that is not read when `prof_ok` is 0. -/
theorem test_mapaot_ltp : answer 0x3900000000000000 = some (true, true, 4, none) := by decide
theorem test_mapaot_unresolved : answer 0x3080000000000000 = some (true, false, 0, none) := by decide
/-- V-MAPSFI: index 0 is a success; 44000 is in no table. -/
theorem test_mapsfi_first : answer 0x402BB80000000000 = some (true, true, 0, none) := by decide
theorem test_mapsfi_nearby : answer 0x40255F0000000000 = some (true, false, 0, none) := by decide
/-- V-MAPCH: SEVENONE; 8 is not reduced modulo 8. -/
theorem test_mapch_seven : answer 0x50000005C0000000 = some (true, true, 7, none) := by decide
theorem test_mapch_eight : answer 0x5000000600000000 = some (true, false, 0, none) := by decide
/-- V-FLEN: the largest that fits; above it, both columns of the table. -/
theorem test_flen_largest : answer 0x6000000000001FF8 = some (true, true, 0x1FFF, none) := by decide
theorem test_flen_over :
    frameLenWith .reject 8185 = none ∧ frameLenWith .truncate 8185 = some 0 ∧
      frameLenWith .truncate 16378 = some 1 ∧ frameLenWith .truncate 1073741823 = some 6 := by decide
/-- W4: the source's scenario. -/
theorem test_build_scenario : answer 0x78A5622480000064 = some (true, true, 0xFFF152BC0D7FFC, none) := by decide
/-- V-BUILD: the frame that is too long, in the TRUNCATE column. -/
theorem test_build_truncate : buildHeaderWith .truncate true 2 true 44100 true 2 8185 = some 0xFFF152BC001FFC := by
  decide
/-- V-EXT8, R90: a reserved bit wins over a range out of contract. -/
theorem test_priority :
    answer 0x10000001000000AC = some (true, true, 0x6B, some (.reservedNonzero 0x10000001000000AC)) := by decide
/-- P4: an unassigned op. -/
theorem test_illegal_op :
    answer 0x8000000000000000 = some (true, true, 0x6B, some (.illegalOp 0x8000000000000000)) := by decide

/-! ### Turns -/

/-- P4: reading `rsp_data` right after reset raises UNWRITTEN_READ. -/
theorem test_unwritten_read :
    shown (step { State.reset with schedule := [.read .data] }) = some (false, false, 0, some (.unwrittenRead .data)) := by
  decide
/-- A word placed for the next step runs as the first instruction after reset. -/
theorem test_with_fetch_word :
    shown (step (State.reset.withFetchWord 64 0x3880000000000000)) = some (true, true, 2, none) := by decide
/-- R83: the numbers of the codes. -/
theorem test_fault_numbers :
    FaultCode.number (FaultRecord.code (.illegalOp 0)) = 1 ∧
      FaultCode.number (FaultRecord.code (.reservedNonzero 0)) = 2 ∧
      FaultCode.number (FaultRecord.code (.extractRange 0 0 0 8)) = 3 ∧
      FaultCode.number (FaultRecord.code (.unwrittenRead .ok)) = 4 := by decide

/-! ### Runs (R106) -/

/-- W2 and V-MAPAOT in one run: the responses in request order. -/
theorem test_run_well :
    observeRun [0x10000000010400AC, 0x3880000000000000] State.reset = some [(true, 0x0A), (true, 2)] := by decide
/-- P4: an early read's run and, after a reset, an unassigned op's run. Neither ends well. -/
theorem test_run_faulted :
    runEnds { State.reset with
      schedule := [.read .valid, .read .data, .reset, .present 0x8000000000000000, .block] } =
      [.faulted (.unwrittenRead .data), .faulted (.illegalOp 0x8000000000000000)] := by decide
/-- R99: a reset that cuts off a request, and the run without requests that it begins. -/
theorem test_run_cut_off :
    runEnds { State.reset with schedule := [.present 0x3880000000000000, .reset] } = [.incomplete, .well []] := by
  decide

/-! ### The assembler -/

/-- 95_test_vectors.md: W2, W4, V-MAPAOT `id(31)`, V-MAPCH `none`, V-FLEN; with a comment and an empty line. -/
theorem test_assemble_text :
    assembleText ["ext8 0b10101100, 1, 4 ; W2", "", "build LC, 44100, STEREO, 100", "map.aot id(31)", "map.ch none",
      "flen 1073741823"] =
      some [0x10000000010400AC, 0x78A5622480000064, 0x3FC0000000000000, 0x5000000000000000, 0x600000003FFFFFFF] := by
  decide
/-- R50 and R49: pseudo-instructions; values that do not fit are refused. -/
theorem test_assemble_pseudo :
    assembleText ["ext8.all 0xAC", "ext16.bit 0x8000, 1"] = some [0x10000000010800AC, 0x2000000001018000] ∧
      assembleText ["ext8 256, 1, 8"] = none ∧ assembleText ["map.sfi 262144"] = none := by decide

/-! ### Witnesses: each statement's hypotheses can be met, clause by clause, at the edges of their ranges -/

theorem witness_decodeOfEncode : (Instr.ext8 0xFF 255 255).wellFormed = true := by decide
theorem witness_decodedInstruction : decode 0x7920E5B5C0001FF8 = .ok (.build true 4 true 7350 true 7 8184) := by decide
/-- Two words of each operation that differ only in fields it does not read; a BUILD word with itself. -/
theorem witness_unreadFields :
    (field 0x38A5622480000064 60 4 = 3 ∧ field 0x3880000000000000 60 4 = 3 ∧
      flag 0x38A5622480000064 59 = flag 0x3880000000000000 59 ∧
      field 0x38A5622480000064 54 5 = field 0x3880000000000000 54 5) ∧
    (field 0x48A5622480000064 60 4 = 4 ∧ field 0x4025622000000000 60 4 = 4 ∧
      flag 0x48A5622480000064 53 = flag 0x4025622000000000 53 ∧
      field 0x48A5622480000064 35 18 = field 0x4025622000000000 35 18) ∧
    (field 0x58A5622480000064 60 4 = 5 ∧ field 0x5000000480000000 60 4 = 5 ∧
      flag 0x58A5622480000064 34 = flag 0x5000000480000000 34 ∧
      field 0x58A5622480000064 30 4 = field 0x5000000480000000 30 4) ∧
    (field 0x68A5622480000064 60 4 = 6 ∧ field 0x6000000000000064 60 4 = 6 ∧
      field 0x68A5622480000064 0 30 = field 0x6000000000000064 0 30) ∧
    (field 0x78A5622480000064 60 4 = 7) ∧ 262143 < 2 ^ 18 ∧ 15 < 2 ^ 4 ∧ 1073741823 < 2 ^ 30 := by decide
/-- Ops 0, 8, 15 and 1, 7. -/
theorem witness_illegalOp :
    held.fault = none ∧ field 0 60 4 = 0 ∧ field 0x8000000000000000 60 4 = 8 ∧ field 0xFFFFFFFFFFFFFFFF 60 4 = 15 ∧
      (1 ≤ field 0x10000000010400AC 60 4 ∧ field 0x10000000010400AC 60 4 ≤ 7) ∧
      (1 ≤ field 0x78A5622480000064 60 4 ∧ field 0x78A5622480000064 60 4 ≤ 7) := by decide
theorem witness_reservedNonzero :
    held.fault = none ∧ (field 0x10000001010400AC 60 4 = 1 ∧ field 0x10000001010400AC 32 28 ≠ 0) ∧
      (field 0x10000000010412AC 60 4 = 1 ∧ field 0x10000000010412AC 8 8 ≠ 0) ∧
      (field 0x280000000110ABCD 60 4 = 2 ∧ field 0x280000000110ABCD 32 28 ≠ 0) ∧
      (field 0x10000000010400AC 60 4 = 1 ∧ field 0x10000000010400AC 32 28 = 0 ∧ field 0x10000000010400AC 8 8 = 0) ∧
      (field 0x200000000110FFFF 60 4 = 2 ∧ field 0x200000000110FFFF 32 28 = 0) ∧
      (3 ≤ field 0x3880000000000000 60 4 ∧ field 0x3880000000000000 60 4 ≤ 7) ∧
      (3 ≤ field 0x78A5622480000064 60 4 ∧ field 0x78A5622480000064 60 4 ≤ 7) := by decide
/-- EXT8 with start 0, start 9, end 0 and end 9. -/
theorem witness_extractRange8 :
    held.fault = none ∧
      ([0x10000000000400AC, 0x10000000090900AC, 0x10000000010000AC, 0x10000000010900AC] : List Word).map
        (fun w => (field w 60 4, field w 32 28, field w 8 8)) = [(1, 0, 0), (1, 0, 0), (1, 0, 0), (1, 0, 0)] ∧
      field 0x10000000000400AC 24 8 = 0 ∧ 8 < field 0x10000000090900AC 24 8 ∧
      field 0x10000000010000AC 16 8 = 0 ∧ 8 < field 0x10000000010900AC 16 8 := by decide
/-- EXT16 with start 0, start 17, end 0 and end 17. -/
theorem witness_extractRange16 :
    ([0x200000000010ABCD, 0x200000001111ABCD, 0x200000001000ABCD, 0x200000000111ABCD] : List Word).map
        (fun w => (field w 60 4, field w 32 28)) = [(2, 0), (2, 0), (2, 0), (2, 0)] ∧
      field 0x200000000010ABCD 24 8 = 0 ∧ 16 < field 0x200000001111ABCD 24 8 ∧
      field 0x200000001000ABCD 16 8 = 0 ∧ 16 < field 0x200000000111ABCD 16 8 := by decide

/-- A state halted on a fault, with a request turn to come, and one with a reset to come. -/
def halted : State := { held with fault := some (.illegalOp 0), schedule := [.present 0x3880000000000000] }
theorem witness_recordedFault : halted.fault = some (.illegalOp 0) ∧ currentTurn halted ≠ .reset ∧
    .reset ∉ halted.schedule.take 5 := by decide
/-- A halted state whose next turn is a reset steps on. -/
theorem witness_haltedReset :
    ({ halted with schedule := [.reset] } : State).fault = some (.illegalOp 0) ∧
      shown (step { halted with schedule := [.reset] }) = some (false, false, 0, none) := by decide
theorem witness_resetTurn :
    ({ halted with inFlight := some 0x3880000000000000, schedule := [.reset, .block] } : State).schedule =
      .reset :: [.block] := by decide
theorem witness_readBeforeResponse :
    ({ State.reset with schedule := [.read .ok] } : State).schedule = .read .ok :: [] ∧
      State.reset.fault = none ∧ State.reset.rspValid = false ∧ RspField.ok ≠ .valid ∧ RspField.data ≠ .valid := by
  decide
/-- Third clause: a read of `rsp_valid` from reset and of `rsp_data` from `held`; fourth: such a read's step. -/
theorem witness_reads :
    (State.reset.fault = none ∧ held.fault = none ∧ held.rspValid = true) ∧
      shown (step { held with schedule := [.read .data] }) = some (true, true, 0x6B, none) ∧
      currentTurn { held with schedule := [.read .data] } ≠ .reset ∧
      currentTurn { held with schedule := [.read .data] } ≠ .block ∧
      currentTurn held = .block ∧ held.inFlight = none := by decide
/-- Third clause: a completing step from a state with a response; the others need only a state without a fault. -/
theorem witness_rspValidStays :
    answer 0x3880000000000000 = some (true, true, 2, none) ∧
      currentTurn (placeRequest 0x3880000000000000 held) ≠ .reset ∧
      (placeRequest 0x3880000000000000 held).rspValid = true ∧ held.fault = none := by decide
/-- The states of the statements about any request from a state without a fault. -/
theorem witness_noFault : State.reset.fault = none ∧ held.fault = none ∧ held.inFlight = none := by decide
theorem witness_stepRuns :
    (placeRequest 0x3880000000000000 held).fault = none ∧
      currentTurn (placeRequest 0x3880000000000000 held) = .block ∧
      (placeRequest 0x3880000000000000 held).inFlight = some 0x3880000000000000 ∧
      decode 0x3880000000000000 = .ok (.mapaot true 2) := by decide
theorem witness_oneRequest :
    (({ held with schedule := [.present 1] } : State).schedule = .present 1 :: [] ∧ held.inFlight = none) ∧
      ({ held with inFlight := some 2, schedule := [.present 1] } : State).inFlight = some 2 ∧
      (held.fault = none ∧ currentTurn held = .block) := by decide
/-- In contract at both ends, in order and reversed, at both widths. -/
theorem witness_inContract :
    InContract 8 1 8 ∧ InContract 8 8 1 ∧ InContract 16 1 16 ∧ InContract 16 16 1 ∧ InContract 8 6 6 ∧
      InContract 8 7 8 ∧ InContract 16 4 5 ∧ InContract 16 6 13 ∧ InContract 16 14 16 := by decide
/-- The first and last index of the table, and a frequency outside it. -/
theorem witness_sampleRates :
    sampleRates.getD 0 0 = 96000 ∧ sampleRates.getD 12 0 = 7350 ∧ 7350 ∈ sampleRates ∧ 44000 ∉ sampleRates := by decide
theorem witness_lookupWords :
    field 0x38A5622480000064 60 4 = 3 ∧ field 0x4025622000000000 60 4 = 4 ∧ field 0x5000000480000000 60 4 = 5 ∧
      field 0x6000000000000064 60 4 = 6 := by decide
/-- A frame length that fits under either policy; the bound on either side of L = 8184. -/
theorem witness_frameLengths :
    frameLen 100 = some 107 ∧ frameLen 8184 = some 8191 ∧ (8184 : Nat) ≤ 8184 ∧ (8185 : Nat) ≤ 8185 ∧
      8191 < 7 + 8185 := by decide
theorem witness_buildSteps :
    mapAot true 2 = some 2 ∧ mapSfi true 44100 = some 4 ∧ mapCh true 2 = some 2 ∧ frameLen 100 = some 107 ∧
      mapAot true 5 = none ∧ mapSfi true 44000 = none ∧ mapCh true 0 = none := by decide
/-- A header under each policy, at the smallest and the largest input. -/
theorem witness_headers :
    buildHeaderWith .reject true 1 true 96000 true 1 0 = some 0xFFF1027C00FFFC ∧
      buildHeaderWith .truncate true 4 true 7350 true 7 8184 = some 0xFFF1F3FFFFFFFC := by decide
/-- Every form, with values at the bounds of their fields, and values one above them. -/
theorem witness_assembled :
    (assemble (.ext8 255 255 255) = some (.ext8 255 255 255) ∧ assemble (.ext8 256 1 8) = none) ∧
      (assemble (.ext16 65535 255 255) = some (.ext16 65535 255 255) ∧ assemble (.ext16 65536 1 16) = none) ∧
      (assemble (.mapAot (some 31)) = some (.mapaot true 31) ∧ assemble (.mapAot (some 32)) = none) ∧
      (assemble (.mapSfi none) = some (.mapsfi false 0) ∧ assemble (.mapSfi (some 262144)) = none) ∧
      (assemble (.mapCh (some 15)) = some (.mapch true 15) ∧ assemble (.mapCh (some 16)) = none) ∧
      (assemble (.flen 1073741823) = some (.flen 1073741823) ∧ assemble (.flen 1073741824) = none) ∧
      assemble (.build (some 2) (some 44100) (some 2) 100) = some (.build true 2 true 44100 true 2 100) := by decide
/-- The largest values that fit, at the first and the last position. -/
theorem witness_pseudo :
    assemble (expandPseudo (.ext8All 255)) = some (.ext8 255 1 8) ∧
      assemble (expandPseudo (.ext16All 65535)) = some (.ext16 65535 1 16) ∧
      assemble (expandPseudo (.ext8Bit 255 1)) = some (.ext8 255 1 1) ∧
      assemble (expandPseudo (.ext8Bit 255 8)) = some (.ext8 255 8 8) ∧
      assemble (expandPseudo (.ext16Bit 65535 1)) = some (.ext16 65535 1 1) ∧
      assemble (expandPseudo (.ext16Bit 65535 16)) = some (.ext16 65535 16 16) := by decide

/-- A state with a request in flight. -/
def busy (ts : List Turn) : State := { State.reset with inFlight := some 0x3880000000000000, schedule := ts }
/-- A reset that meets a request in flight, whose history holds it without a response; and one that meets a fault. -/
theorem witness_resetBegins :
    (currentTurn (busy [.reset]) = .reset ∧ ∃ p ∈ (startHistory (busy [.reset])).current, p.response = none) ∧
      (currentTurn { halted with schedule := [.reset] } = .reset ∧ halted.fault = some (.illegalOp 0)) := by decide
/-- An early read of each field, with further turns of its run. -/
theorem witness_earlyRead :
    State.reset.fault = none ∧ State.reset.rspValid = false ∧ RspField.ok ≠ .valid ∧ RspField.data ≠ .valid ∧
      .reset ∉ ([.present 0x3880000000000000, .block] : List Turn).take 2 := by decide
/-- The history of a request in flight is in account; the step that completes it leads on, and so does a reset. -/
theorem witness_accounts (ts : List Turn) : (startHistory (busy ts)).Accounts (busy ts) :=
  ⟨[], [⟨0x3880000000000000, none⟩], rfl, by simp, rfl⟩
theorem witness_accountedStep :
    shown (step (busy [.block])) = some (true, true, 2, none) ∧
      shown (step (busy [.reset])) = some (false, false, 0, none) ∧ (busy [.reset]).fault = none := by decide
/-- A fault, then turns without effect, then a reset. -/
theorem witness_faultThenReset :
    ({ halted with schedule := [.present 1, .block, .reset, .block] } : State).schedule =
        [.present 1, .block] ++ .reset :: [.block] ∧ .reset ∉ ([.present 1, .block] : List Turn) := by decide
/-- A lone presented request: incomplete, then completed by the block. -/
theorem witness_lonePresent :
    ({ held with schedule := [.present 0x3880000000000000] } : State).schedule = [.present 0x3880000000000000] ∧
      held.fault = none ∧ held.inFlight = none := by decide
/-- A run that ends well with an observation. -/
theorem witness_runWell :
    runEnd (followRun 1 (busy [.block]) (startHistory (busy [.block]))).1
      (followRun 1 (busy [.block]) (startHistory (busy [.block]))).2.current = .well [(true, 2)] := by decide
/-- The invariant holds of a state with a header and of one with a fault record, and steps lead on from both. -/
theorem witness_invariant :
    ({ held with rspData := 0xFFF152BC0D7FFC } : State).Inv ∧
      shown (step { held with rspData := 0xFFF152BC0D7FFC }) = some (true, true, 0xFFF152BC0D7FFC, none) := by
  refine ⟨⟨?_, ?_, ?_⟩, ?_⟩
  · decide
  · decide
  · simp [held, State.reset]
  · decide

end Sys2Proof.Tests
end

/-! ### A request's answer depends on its word alone (R14)

Every instruction applies an answer, a response or a fault, that its operands alone fix. The answers are those of
`applyAnswer`; here only that there is one is needed, and not its closed form. -/

namespace Sys2Proof.Machine

theorem applyAnswer_error (r : FaultRecord) (s : State) : applyAnswer (.error r) s = raiseFault r s :=
  (raiseFault_eq r s).symm

theorem extractRequest_eq_applyAnswer {W : Nat} (v : BitVec W) (b e : Nat) (req : Word) :
    ∃ a, ∀ s, extractRequest v b e req s = applyAnswer a s := by
  by_cases hc : InContract W b e
  · exact ⟨.ok (true, (extract v b e hc).setWidth 56), fun s => extractRequest_inside v req s hc⟩
  · exact ⟨.error (.extractRange req b e W), fun s => by rw [extractRequest_outside v req s hc, applyAnswer_error]⟩

theorem respondResult_eq_applyAnswer {n : Nat} (result : Option (BitVec n)) (s : State) :
    respondResult result s = applyAnswer (.ok (okFlag result, resultData result)) s := rfl

/-- Each operation, from every state, applies one answer. -/
theorem exec_eq_applyAnswer (i : Instr) : ∃ a, ∀ s, exec i s = .next (applyAnswer a s) := by
  cases i with
  | ext8 v b e =>
    obtain ⟨a, ha⟩ := extractRequest_eq_applyAnswer v b e (encode (.ext8 v b e))
    exact ⟨a, fun s => congrArg _ (ha s)⟩
  | ext16 v b e =>
    obtain ⟨a, ha⟩ := extractRequest_eq_applyAnswer v b e (encode (.ext16 v b e))
    exact ⟨a, fun s => congrArg _ (ha s)⟩
  | mapaot ok id => exact ⟨_, fun s => congrArg _ (respondResult_eq_applyAnswer (mapAot ok id) s)⟩
  | mapsfi ok hz => exact ⟨_, fun s => congrArg _ (respondResult_eq_applyAnswer (mapSfi ok hz) s)⟩
  | mapch ok id => exact ⟨_, fun s => congrArg _ (respondResult_eq_applyAnswer (mapCh ok id) s)⟩
  | flen l => exact ⟨_, fun s => congrArg _ (respondResult_eq_applyAnswer (frameLen l) s)⟩
  | build po p ro hz co c l =>
    exact ⟨_, fun s => congrArg _ (respondResult_eq_applyAnswer (buildHeader po p ro hz co c l) s)⟩

/-- So does each request word, whether the decoder takes or refuses it. -/
theorem step_placeRequest_eq_applyAnswer (w : Word) :
    ∃ a, ∀ s : State, s.fault = none → step (placeRequest w s) = .next (applyAnswer a { s with inFlight := none }) := by
  cases hd : decode w with
  | ok i =>
    obtain ⟨a, ha⟩ := exec_eq_applyAnswer i
    exact ⟨a, fun s hf => by simp only [step_placeRequest w hf, hd, ha]⟩
  | error e => exact ⟨.error (decodeFault w e), fun s hf => by
      simp only [step_placeRequest w hf, hd, applyAnswer_error]⟩

/-- Settles O16: both states take the word's one answer. -/
theorem responsesDependOnTheRequestAlone : Obligations.ResponsesDependOnTheRequestAlone := by
  intro w s s' hf hf'
  obtain ⟨a, ha⟩ := step_placeRequest_eq_applyAnswer w
  refine ⟨_, _, ha s hf, ha s' hf', ?_⟩
  cases a with
  | ok r => exact ⟨hf.trans hf'.symm, fun _ => ⟨rfl, rfl⟩⟩
  | error r => simp [applyAnswer_error, hf, hf']

end Sys2Proof.Machine

/-! ### A recorded fault ends the run (R23, R93) -/

namespace Sys2Proof.Machine

theorem applyAnswer_keeps_fault {s : State} {r : FaultRecord} (hf : s.fault = some r)
    (a : Except FaultRecord (Bool × RspData)) : (applyAnswer a s).fault = some r := by
  cases a with
  | ok p => exact hf
  | error q => simp [applyAnswer_error, hf]

/-- A halted block answers every turn but a reset with its fault. -/
theorem step_halted {s : State} {r : FaultRecord} (hf : s.fault = some r) (ht : currentTurn s ≠ .reset) :
    step s = .fault (.halted r) := by
  rw [step, fetch_halted hf ht]

/-- Until a reset, the turns of a halted block only use up its schedule, and its history stays as it is. -/
theorem followRun_of_fault (k : Nat) {s : State} {r : FaultRecord} (hf : s.fault = some r)
    (hn : .reset ∉ s.schedule.take k) (h : RunHistory) :
    followRun k s h = ({ s with schedule := s.schedule.drop k }, h) := by
  induction k generalizing s with
  | zero => rfl
  | succ k ih =>
    cases hs : s.schedule with
    | nil =>
      have ht : currentTurn s ≠ .reset := by simp [currentTurn, hs]
      rw [followRun_halted hf ht, ih (s := popTurn s) hf (by simp [hs])]
      simp [popTurn, hs]
    | cons turn rest =>
      rw [hs, List.take_succ_cons, List.mem_cons, not_or] at hn
      obtain ⟨hne, hrest⟩ := hn
      have ht : currentTurn s ≠ .reset := by simpa [currentTurn, hs] using Ne.symm hne
      rw [followRun_halted hf ht, ih (s := popTurn s) hf (by simpa [hs] using hrest)]
      simp [popTurn, hs]

/-- With no reset to come, a halted block's run is the only one, and it has faulted. -/
theorem runEnds_of_fault {s : State} {r : FaultRecord} (hf : s.fault = some r) (hn : .reset ∉ s.schedule) :
    runEnds s = [.faulted r] := by
  have htake : .reset ∉ s.schedule.take (s.schedule.length + 1) := fun hm => hn (List.mem_of_mem_take hm)
  rw [runEnds, followRun_of_fault _ hf htake]
  simp [startHistory, runEnd_faulted, hf]

theorem reset_not_mem_straightLine (ws : List Word) : .reset ∉ straightLine ws := by
  simp [straightLine]

theorem observeRun_of_fault {s : State} {r : FaultRecord} (hf : s.fault = some r) (ws : List Word) :
    observeRun ws s = none := by
  rw [observeRun, runEnds_of_fault (s := { s with schedule := straightLine ws }) hf (reset_not_mem_straightLine ws)]

/-- Settles O9, clause by clause; the run clause by induction on the number of turns (`followRun_of_fault`). -/
theorem recordedFaultEndsTheRun : Obligations.RecordedFaultEndsTheRun := by
  refine ⟨rfl, ?first, fun s r => step_halted, ?onlyReset, ?exec, fun ws s r hf => observeRun_of_fault hf ws, ?run⟩
  case first =>
    intro r s hf
    simp [hf]
  case onlyReset =>
    intro s t r hf hs
    by_contra ht
    simp [step_halted hf ht] at hs
  case exec =>
    intro i s r hf
    obtain ⟨a, ha⟩ := exec_eq_applyAnswer i
    exact ⟨_, ha s, applyAnswer_keeps_fault hf a⟩
  case run =>
    intro k s h r hf hn
    rw [followRun_of_fault k hf hn]
    exact runEnd_faulted hf _

end Sys2Proof.Machine

/-! ### The host's reads (R20, R25) and `rsp_valid` (R21) -/

namespace Sys2Proof.Machine

theorem hostRead_of_readable {f : RspField} {s : State} (h : f = .valid ∨ s.rspValid = true) : hostRead f s = s := by
  rcases hostRead_cases f s with hs | ⟨hv, hne, -⟩
  · exact hs
  · simp [hv, hne] at h

theorem hostRead_of_unwritten {f : RspField} {s : State} (hv : s.rspValid = false) (hne : f ≠ .valid) :
    hostRead f s = raiseFault (.unwrittenRead f) s := by
  cases f with
  | valid => exact absurd rfl hne
  | ok => simp [hostRead, hv]
  | data => simp [hostRead, hv]

theorem step_read {s : State} {f : RspField} {rest : List Turn} (hs : s.schedule = .read f :: rest)
    (hf : s.fault = none) : step s = .next (hostRead f { s with schedule := rest }) := by
  rw [step, fetch_running hf]
  simp [currentTurn, popTurn, hs, takeTurn]

theorem readRspOk_eq_none {s : State} (hv : s.rspValid = false) : readRspOk s = none := by
  simp [readRspOk, hv]

theorem readRspData_eq_none {s : State} (hv : s.rspValid = false) : readRspData s = none := by
  simp [readRspData, hv]

/-- The response registers of `t` are those of `s`. -/
def SameResponse (s t : State) : Prop :=
  t.rspValid = s.rspValid ∧ t.rspOk = s.rspOk ∧ t.rspData = s.rspData

theorem SameResponse.refl (s : State) : SameResponse s s := ⟨rfl, rfl, rfl⟩

theorem sameResponse_raiseFault (r : FaultRecord) (s : State) : SameResponse s (raiseFault r s) := by
  simp [SameResponse]

theorem sameResponse_hostRead (f : RspField) (s : State) : SameResponse s (hostRead f s) := by
  rcases hostRead_cases f s with hs | ⟨-, -, hs⟩ <;> rw [hs]
  · exact .refl s
  · exact sameResponse_raiseFault _ s

/-- An answer is a response, or it keeps the response registers. -/
theorem applyAnswer_rspValid_or_sameResponse (a : Except FaultRecord (Bool × RspData)) (s : State) :
    (applyAnswer a s).rspValid = true ∨ SameResponse s (applyAnswer a s) := by
  cases a with
  | ok p => exact .inl rfl
  | error r => exact .inr ⟨rfl, rfl, rfl⟩

/-- All a step other than a reset can do to the response registers: a request in flight responds, or they are kept. -/
theorem step_responds_or_sameResponse {s t : State} (h : step s = .next t) (ht : currentTurn s ≠ .reset) :
    (currentTurn s = .block ∧ s.inFlight ≠ none ∧ t.rspValid = true) ∨ SameResponse s t := by
  rcases step_cases h with ⟨hr, -⟩ | ⟨-, ⟨w, -, -, rfl⟩ | ⟨f, -, rfl⟩ | ⟨-, -, rfl⟩ | ⟨w, e, -, -, -, rfl⟩ |
    ⟨w, i, hb, hq, -, he⟩⟩
  · exact absurd hr ht
  · exact .inr (.refl s)
  · exact .inr (sameResponse_hostRead f (popTurn s))
  · exact .inr (.refl s)
  · exact .inr (sameResponse_raiseFault _ _)
  · obtain ⟨a, ha⟩ := exec_eq_applyAnswer i
    rw [ha] at he
    injection he with he
    subst he
    rcases applyAnswer_rspValid_or_sameResponse a { popTurn s with inFlight := none } with hv | hkeep
    · exact .inl ⟨hb, by simp [hq], hv⟩
    · exact .inr hkeep

/-- Settles O12: the read's turn is taken, and with `rsp_valid` 0 it records UNWRITTEN_READ. -/
theorem readBeforeTheFirstResponseFaults : Obligations.ReadBeforeTheFirstResponseFaults := by
  intro s f rest hs hf hv hne
  refine ⟨readRspOk_eq_none hv, readRspData_eq_none hv, ?_⟩
  rw [step_read hs hf, hostRead_of_unwritten (s := { s with schedule := rest }) hv hne, raiseFault_eq]
  simp [hf]

/-- Settles O13: a readable field's read is the identity, and only a completion or a reset writes the registers. -/
theorem readsHaveNoSideEffect : Obligations.ReadsHaveNoSideEffect := by
  refine ⟨fun s ok d => ⟨rfl, rfl, rfl⟩, rfl, ?read, ?frame⟩
  case read =>
    intro s f rest hs hf h
    rw [step_read hs hf, hostRead_of_readable (s := { s with schedule := rest }) h]
  case frame =>
    intro s t h hr hidle
    rcases step_responds_or_sameResponse h hr with ⟨hb, hq, -⟩ | hkeep
    · exact absurd hidle (by simp [hb, hq])
    · exact hkeep

/-- Settles O14: `rsp_valid` follows the word's answer, and no other step but a reset clears it. -/
theorem rspValidIsSetByACompletedRequest : Obligations.RspValidIsSetByACompletedRequest := by
  refine ⟨rfl, ?completed, ?stays⟩
  case completed =>
    intro w s hf
    obtain ⟨a, ha⟩ := step_placeRequest_eq_applyAnswer w
    refine ⟨_, ha s hf, ?_⟩
    cases a with
    | ok p => simp [applyAnswer, hf]
    | error r => simp [applyAnswer_error, hf]
  case stays =>
    intro s t h hr hv
    rcases step_responds_or_sameResponse h hr with ⟨-, -, htv⟩ | ⟨hkeep, -, -⟩
    · exact htv
    · exact hkeep.trans hv

/-- Settles O10: the values of reset, and no read before the first response gives a value. -/
theorem resetLeavesNoResponseAndNoFault : Obligations.ResetLeavesNoResponseAndNoFault :=
  ⟨rfl, rfl, readRspOk_eq_none rfl, readRspData_eq_none rfl⟩

end Sys2Proof.Machine

/-! ### Format H fields that are not read (R46) -/

namespace Sys2Proof

theorem decode_of_op_mapaot {w : Word} (h : field w 60 4 = 3) :
    decode w = .ok (.mapaot (flag w 59) (field w 54 5)) := by simp [decode_eq, h]

theorem decode_of_op_mapsfi {w : Word} (h : field w 60 4 = 4) :
    decode w = .ok (.mapsfi (flag w 53) (field w 35 18)) := by simp [decode_eq, h]

theorem decode_of_op_mapch {w : Word} (h : field w 60 4 = 5) :
    decode w = .ok (.mapch (flag w 34) (field w 30 4)) := by simp [decode_eq, h]

theorem decode_of_op_flen {w : Word} (h : field w 60 4 = 6) :
    decode w = .ok (.flen (field w 0 30)) := by simp [decode_eq, h]

theorem decode_of_op_build {w : Word} (h : field w 60 4 = 7) :
    decode w = .ok (.build (flag w 59) (field w 54 5) (flag w 53) (field w 35 18) (flag w 34) (field w 30 4)
      (field w 0 30)) := by simp [decode_eq, h]

theorem flag_eq_flag_iff {w w' : Word} {i : Nat} :
    flag w i = flag w' i ↔ w.toNat / 2 ^ i % 2 = w'.toNat / 2 ^ i % 2 := by
  rw [flag_eq, flag_eq, decide_eq_decide]
  omega

/-- The eight fields of Format H (R41) cover the word. -/
theorem eq_of_formatH_fields_eq {w w' : Word} (hop : field w 60 4 = field w' 60 4) (hpo : flag w 59 = flag w' 59)
    (hp : field w 54 5 = field w' 54 5) (hro : flag w 53 = flag w' 53) (hhz : field w 35 18 = field w' 35 18)
    (hco : flag w 34 = flag w' 34) (hc : field w 30 4 = field w' 30 4) (hl : field w 0 30 = field w' 0 30) :
    w = w' := by
  have := w.isLt
  have := w'.isLt
  simp only [field_eq, flag_eq_flag_iff] at *
  exact BitVec.eq_of_toNat_eq (by omega)

/-- BUILD reads every field (R72). -/
theorem decode_build_injective {w w' : Word} (hop : field w 60 4 = 7) (hop' : field w' 60 4 = 7)
    (h : decode w = decode w') : w = w' := by
  rw [decode_of_op_build hop, decode_of_op_build hop'] at h
  injection h with h
  injection h with hpo hp hro hhz hco hc hl
  exact eq_of_formatH_fields_eq (hop.trans hop'.symm) hpo hp hro hhz hco hc hl

/-- A slice of a Format H word, also where an operand is too large for its field. -/
theorem field_formatH (op : Nat) (po : Bool) (p : Nat) (ro : Bool) (hz : Nat) (co : Bool) (c l lo n : Nat) :
    field (formatH op po p ro hz co c l) lo n =
      (op * 2 ^ 60 + po.toNat * 2 ^ 59 + p * 2 ^ 54 + ro.toNat * 2 ^ 53 + hz * 2 ^ 35 + co.toNat * 2 ^ 34 + c * 2 ^ 30
        + l) % 2 ^ 64 / 2 ^ lo % 2 ^ n := by
  rw [field_eq, formatH, BitVec.toNat_ofNat]

theorem encode_mapaot_unread (ok : Bool) (p : Nat) : field (encode (.mapaot ok p)) 0 54 = 0 := by
  simp only [encode, opField, field_formatH, Bool.toNat_false]
  omega

theorem encode_mapsfi_unread (ok : Bool) {hz : Nat} (h : hz < 2 ^ 18) :
    field (encode (.mapsfi ok hz)) 54 6 = 0 ∧ field (encode (.mapsfi ok hz)) 0 35 = 0 := by
  have := ok.toNat_le
  simp only [encode, opField, field_formatH, Bool.toNat_false]
  omega

theorem encode_mapch_unread (ok : Bool) {c : Nat} (h : c < 2 ^ 4) :
    field (encode (.mapch ok c)) 35 25 = 0 ∧ field (encode (.mapch ok c)) 0 30 = 0 := by
  have := ok.toNat_le
  simp only [encode, opField, field_formatH, Bool.toNat_false]
  omega

theorem encode_flen_unread {l : Nat} (h : l < 2 ^ 30) : field (encode (.flen l)) 30 30 = 0 := by
  simp only [encode, opField, field_formatH, Bool.toNat_false]
  omega

/-- Settles O4: each operation decodes to its own fields, and the fields of BUILD cover the word. -/
theorem unreadFieldsHaveNoEffect : Obligations.UnreadFieldsHaveNoEffect := by
  refine ⟨?mapaot, ?mapsfi, ?mapch, ?flen, fun w w' => decode_build_injective, encode_mapaot_unread,
    fun ok hz => encode_mapsfi_unread ok, fun ok c => encode_mapch_unread ok, fun l => encode_flen_unread⟩
  case mapaot =>
    intro w w' h h' hok hid
    rw [decode_of_op_mapaot h, decode_of_op_mapaot h', hok, hid]
  case mapsfi =>
    intro w w' h h' hok hhz
    rw [decode_of_op_mapsfi h, decode_of_op_mapsfi h', hok, hhz]
  case mapch =>
    intro w w' h h' hok hid
    rw [decode_of_op_mapch h, decode_of_op_mapch h', hok, hid]
  case flen =>
    intro w w' h h' hl
    rw [decode_of_op_flen h, decode_of_op_flen h', hl]

end Sys2Proof

/-! ### Reserved bits (R45, R85) -/

namespace Sys2Proof.Machine

/-- A reserved bit of Format X is set: one of `req[59:32]` in EXT8 and EXT16, one of `req[15:8]` in EXT8 (R45). -/
def ReservedBitSet (w : Word) : Prop :=
  (field w 60 4 = 1 ∧ (field w 32 28 ≠ 0 ∨ field w 8 8 ≠ 0)) ∨ (field w 60 4 = 2 ∧ field w 32 28 ≠ 0)

theorem decode_eq_reservedNonzero_iff {w : Word} : decode w = .error .reservedNonzero ↔ ReservedBitSet w := by
  rw [decode_eq, ReservedBitSet, decodeExt8, decodeExt16]
  split_ifs <;> simp_all

theorem extractRequest_fault_cases {W : Nat} (v : BitVec W) (b e : Nat) (req : Word) {s : State}
    (hf : s.fault = none) :
    (extractRequest v b e req s).fault = none ∨
      (extractRequest v b e req s).fault = some (.extractRange req b e W) := by
  by_cases hc : InContract W b e
  · simp [extractRequest_inside v req s hc, hf]
  · simp [extractRequest_outside v req s hc, hf]

/-- The one fault an operation can raise is EXTRACT_RANGE (R58). -/
theorem exec_fault_cases (i : Instr) {s : State} (hf : s.fault = none) :
    ∃ t, exec i s = .next t ∧ (t.fault = none ∨ ∃ req b e W, t.fault = some (.extractRange req b e W)) := by
  cases i with
  | ext8 v b e => exact ⟨_, rfl, (extractRequest_fault_cases v b e _ hf).imp_right fun h => ⟨_, _, _, _, h⟩⟩
  | ext16 v b e => exact ⟨_, rfl, (extractRequest_fault_cases v b e _ hf).imp_right fun h => ⟨_, _, _, _, h⟩⟩
  | mapaot | mapsfi | mapch | flen | build => exact ⟨_, rfl, .inl hf⟩

/-- A refused word's fault is recorded, and only the request is consumed (R84, R85). -/
theorem step_placeRequest_of_refused {w : Word} {e : DecodeError} {s : State} (hf : s.fault = none)
    (hd : decode w = .error e) :
    step (placeRequest w s) = .next { s with inFlight := none, fault := some (decodeFault w e) } := by
  simp only [step_placeRequest w hf, hd, raiseFault_eq, hf, Option.none_or]

/-- A word without a set reserved bit raises something else or nothing. -/
theorem step_placeRequest_not_reservedNonzero {w : Word} {s : State} (hf : s.fault = none) (hw : ¬ ReservedBitSet w) :
    ∃ t, step (placeRequest w s) = .next t ∧ ∀ v, t.fault ≠ some (.reservedNonzero v) := by
  cases hd : decode w with
  | error e =>
    cases e with
    | illegalOp => exact ⟨_, step_placeRequest_of_refused hf hd, by simp [decodeFault]⟩
    | reservedNonzero => exact absurd (decode_eq_reservedNonzero_iff.mp hd) hw
  | ok i =>
    obtain ⟨t, ht, hfault⟩ := exec_fault_cases i (s := { s with inFlight := none }) hf
    refine ⟨t, by simp only [step_placeRequest w hf, hd, ht], fun v hv => ?_⟩
    rcases hfault with h | ⟨req, b, e, W, h⟩ <;> simp [h] at hv

/-- Settles O6: the decoder refuses exactly the words with a reserved bit set, and no operation raises that fault. -/
theorem reservedBitsRaiseReservedNonzero : Obligations.ReservedBitsRaiseReservedNonzero := by
  intro w s hf
  refine ⟨fun hw => step_placeRequest_of_refused hf (decode_eq_reservedNonzero_iff.mpr hw), fun hw => ?_⟩
  refine step_placeRequest_not_reservedNonzero hf ?_
  rw [ReservedBitSet]
  omega

end Sys2Proof.Machine

/-! ### The pseudo-instructions (R50) -/

namespace Sys2Proof.Machine

/-- In contract the extractor answers its closed form (R52, R55). -/
theorem extractRequest_answer {W : Nat} (v : BitVec W) {b e : Nat} (req : Word) (s : State) (h : InContract W b e) :
    extractRequest v b e req s = respond true (BitVec.ofNat 56 (v.toNat % 2 ^ (W - b + 1) / 2 ^ (W - e))) s := by
  rw [extractRequest_inside v req s h, ← extract_toNat v b e h, BitVec.ofNat_toNat]

/-- An EXT8 request in contract, whose value fits, assembles and answers the extractor's closed form. -/
theorem assembled_ext8_answers {v b e : Nat} (hv : v ≤ 255) (h : InContract 8 b e) (s : State) :
    ∃ i, assemble (.ext8 v b e) = some i ∧
      exec i s = .next (respond true (BitVec.ofNat 56 (v % 2 ^ (8 - b + 1) / 2 ^ (8 - e))) s) := by
  refine ⟨_, if_pos (by omega), ?_⟩
  rw [exec, execExt8, extractRequest_answer _ _ _ h, BitVec.toNat_ofNat, Nat.mod_eq_of_lt (a := v) (by omega)]

/-- An EXT16 request likewise. -/
theorem assembled_ext16_answers {v b e : Nat} (hv : v ≤ 65535) (h : InContract 16 b e) (s : State) :
    ∃ i, assemble (.ext16 v b e) = some i ∧
      exec i s = .next (respond true (BitVec.ofNat 56 (v % 2 ^ (16 - b + 1) / 2 ^ (16 - e))) s) := by
  refine ⟨_, if_pos (by omega), ?_⟩
  rw [exec, execExt16, extractRequest_answer _ _ _ h, BitVec.toNat_ofNat, Nat.mod_eq_of_lt (a := v) (by omega)]

/-- The closed form on a single position: the bit there, counted from the MSB. -/
theorem mod_div_eq_bit (v n : Nat) : v % 2 ^ (n + 1) / 2 ^ n = v / 2 ^ n % 2 := by
  rw [Nat.pow_succ, Nat.mod_mul_right_div_self]

/-- Settles O40: each expansion is in contract, so it answers the extractor's closed form on the full range or on one
position. -/
theorem pseudoInstructionsExpand : Obligations.PseudoInstructionsExpand := by
  refine ⟨fun _ => rfl, fun _ => rfl, fun _ _ => rfl, fun _ _ => rfl, ?all8, ?all16, ?bit8, ?bit16⟩
  case all8 =>
    intro s v hv
    have h := assembled_ext8_answers hv (b := 1) (e := 8) (by decide) s
    rwa [Nat.mod_eq_of_lt (by omega), Nat.sub_self, Nat.pow_zero, Nat.div_one] at h
  case all16 =>
    intro s v hv
    have h := assembled_ext16_answers hv (b := 1) (e := 16) (by decide) s
    rwa [Nat.mod_eq_of_lt (by omega), Nat.sub_self, Nat.pow_zero, Nat.div_one] at h
  case bit8 =>
    intro s v p hv h1 h8
    have h := assembled_ext8_answers hv (b := p) (e := p) ⟨h1, h8, h1, h8⟩ s
    rwa [mod_div_eq_bit] at h
  case bit16 =>
    intro s v p hv h1 h16
    have h := assembled_ext16_answers hv (b := p) (e := p) ⟨h1, h16, h1, h16⟩ s
    rwa [mod_div_eq_bit] at h

end Sys2Proof.Machine

/-! ### Reversed ranges (R57) -/

namespace Sys2Proof.Machine

/-- The low `W - s + 1` bits that the first two steps keep are all shifted out when `e < s` (R57). -/
theorem extract_eq_zero_of_lt {W : Nat} (v : BitVec W) {s e : Nat} (h : InContract W s e) (hes : e < s) :
    extract v s e h = 0 := by
  apply BitVec.eq_of_toNat_eq
  have hkept : v.toNat % 2 ^ (W - s + 1) < 2 ^ (W - s + 1) := Nat.mod_lt _ (Nat.two_pow_pos _)
  have hpow : 2 ^ (W - s + 1) ≤ 2 ^ (W - e) := Nat.pow_le_pow_right (by decide) (by omega)
  rw [extract_toNat, Nat.div_eq_of_lt (hkept.trans_le hpow)]
  simp

/-- A reversed range is in contract, and the extractor responds with 0 (R57). -/
theorem extractRequest_of_reversed {W : Nat} (v : BitVec W) {s e : Nat} (req : Word) (st : State)
    (he : 1 ≤ e) (hes : e < s) (hs : s ≤ W) : extractRequest v s e req st = respond true 0 st := by
  have h : InContract W s e := ⟨by omega, hs, he, by omega⟩
  simp [extractRequest_inside v req st h, extract_eq_zero_of_lt v h hes]

/-- Settles O24: both operations are the extractor's request at their width, and that responds with 0. -/
theorem reversedRangeGivesZero : Obligations.ReversedRangeGivesZero :=
  ⟨fun s v _ _ hb hba ha => congrArg Host.Outcome.next (extractRequest_of_reversed v _ s hb hba ha),
    fun s v _ _ hb hba ha => congrArg Host.Outcome.next (extractRequest_of_reversed v _ s hb hba ha)⟩

end Sys2Proof.Machine

/-! ### The metadata validator (R59-R65)

MAPAOT, MAPSFI, MAPCH and BUILD each respond with a result, and the absent result is one response, whichever lookup
FAILs. -/

namespace Sys2Proof.Machine

theorem exec_mapaot (ok : Bool) (id : Nat) (s : State) :
    exec (.mapaot ok id) s = .next (respondResult (mapAot ok id) s) := rfl

theorem exec_mapsfi (ok : Bool) (hz : Nat) (s : State) :
    exec (.mapsfi ok hz) s = .next (respondResult (mapSfi ok hz) s) := rfl

theorem exec_mapch (ok : Bool) (id : Nat) (s : State) :
    exec (.mapch ok id) s = .next (respondResult (mapCh ok id) s) := rfl

theorem exec_build (po : Bool) (p : Nat) (ro : Bool) (hz : Nat) (co : Bool) (c l : Nat) (s : State) :
    exec (.build po p ro hz co c l) s = .next (respondResult (buildHeader po p ro hz co c l) s) := rfl

/-- A code that fits its width is answered as the same number (R51). -/
theorem respondResult_some_ofNat {w n : Nat} (hn : n < 2 ^ w) (s : State) :
    respondResult (some (BitVec.ofNat w n)) s =
      { s with rspValid := true, rspOk := true, rspData := BitVec.ofNat 56 n } := by
  rw [respondResult_some, ← BitVec.ofNat_toNat, BitVec.toNat_ofNat, Nat.mod_eq_of_lt hn]

theorem mapAot_of_code {id : Nat} (h1 : 1 ≤ id) (h4 : id ≤ 4) : mapAot true id = some (BitVec.ofNat 3 id) := by
  rw [mapAot_eq, if_pos ⟨rfl, h1, h4⟩]

theorem mapAot_eq_none {ok : Bool} {id : Nat} (h : ok = false ∨ id = 0 ∨ 5 ≤ id) : mapAot ok id = none := by
  rcases h with rfl | h
  · rfl
  · rw [mapAot_eq, if_neg fun ⟨_, h1, h4⟩ => by omega]

theorem mapCh_of_code {id : Nat} (h1 : 1 ≤ id) (h7 : id ≤ 7) : mapCh true id = some (BitVec.ofNat 3 id) := by
  rw [mapCh_eq, if_pos ⟨rfl, h1, h7⟩]

theorem mapCh_eq_none {ok : Bool} {id : Nat} (h : ok = false ∨ id = 0 ∨ 8 ≤ id) : mapCh ok id = none := by
  rcases h with rfl | h
  · rfl
  · rw [mapCh_eq, if_neg fun ⟨_, h1, h7⟩ => by omega]

/-- Settles O25: a code 1..4 fits the three bits of the result, and any other identifier FAILs. -/
theorem mapaotAnswersTheObjectTypeCode : Obligations.MapaotAnswersTheObjectTypeCode := by
  refine ⟨fun w => decode_of_op_mapaot, fun s id h1 h4 => ?code, fun s ok id h => ?absent⟩
  case code => rw [exec_mapaot, mapAot_of_code h1 h4, respondResult_some_ofNat (by omega)]
  case absent => rw [exec_mapaot, mapAot_eq_none h, respondResult_none]

/-- Settles O27: a code 1..7 fits the three bits of the result, and any other identifier FAILs. -/
theorem mapchAnswersTheChannelCode : Obligations.MapchAnswersTheChannelCode := by
  refine ⟨fun w => decode_of_op_mapch, fun s id h1 h7 => ?code, fun s ok id h => ?absent⟩
  case code => rw [exec_mapch, mapCh_of_code h1 h7, respondResult_some_ofNat (by omega)]
  case absent => rw [exec_mapch, mapCh_eq_none h, respondResult_none]

/-- A header needs all three lookups (R71), so one FAIL among them is the builder's FAIL. -/
theorem buildHeader_eq_none_of_lookup {po ro co : Bool} {p hz c : Nat} (l : Nat)
    (h : mapAot po p = none ∨ mapSfi ro hz = none ∨ mapCh co c = none) : buildHeader po p ro hz co c l = none := by
  refine Option.eq_none_iff_forall_ne_some.mpr fun H hH => ?_
  obtain ⟨aot, sfi, ch, _, ha, hs, hc, _⟩ := buildHeaderWith_eq_some.mp hH
  simp [ha, hs, hc] at h

/-- Settles O28: each of the four operations responds with its result, and the absent result is one response. -/
theorem lookupFailuresAllLookTheSame : Obligations.LookupFailuresAllLookTheSame := by
  refine fun s po ro co p hz c l => ⟨fun h => ?aot, fun h => ?sfi, fun h => ?ch, fun h => ?build⟩
  case aot => rw [exec_mapaot, h, respondResult_none]
  case sfi => rw [exec_mapsfi, h, respondResult_none]
  case ch => rw [exec_mapch, h, respondResult_none]
  case build => rw [exec_build, buildHeader_eq_none_of_lookup l h, respondResult_none]

end Sys2Proof.Machine

/-! ### The frame length (R66, R67)

FLEN responds with the frame length under the block's policy, so what it answers is the frame length's own case split:
the sum fits 13 bits, or the policy decides. -/

namespace Sys2Proof.Machine

theorem exec_flen (l : Nat) (s : State) :
    exec (.flen l) s = .next (respondResult (frameLenWith Config.flOverflow l) s) := rfl

theorem frameLenWith_over_reject {L : Nat} (h : 8185 ≤ L) : frameLenWith .reject L = none := by
  rw [frameLenWith_over .reject h, if_neg nofun]

/-- The truncated frame length, as a number that fits the 13 bits (R66). -/
theorem frameLenWith_over_truncate {L : Nat} (h : 8185 ≤ L) :
    frameLenWith .truncate L = some (BitVec.ofNat 13 ((7 + L) % 8192)) := by
  have hmod : BitVec.ofNat 13 ((7 + L) % 8192) = BitVec.ofNat 13 (7 + L) :=
    BitVec.eq_of_toNat_eq (by simp)
  rw [frameLenWith_over .truncate h, if_pos rfl, hmod]

/-- A result that fits its width is read back as the same number. -/
theorem map_toNat_some_ofNat {w n : Nat} (hn : n < 2 ^ w) :
    (some (BitVec.ofNat w n)).map BitVec.toNat = some n := by
  rw [Option.map_some, BitVec.toNat_ofNat, Nat.mod_eq_of_lt hn]

/-- Settles O30: up to L = 8184 the sum fits the 13 bits, and above, each policy gives its own result. -/
theorem flenAnswersTheFrameLength : Obligations.FlenAnswersTheFrameLength := by
  refine ⟨fun w => decode_of_op_flen, fun s L h => ?flenFits, fun s L h => ?flenOver, fun L h policy => ?lenFits,
    fun L h => ⟨frameLenWith_over_reject h, ?lenTruncated⟩⟩
  case flenFits => rw [exec_flen, frameLenWith_fits _ h, respondResult_some_ofNat (by omega)]
  case flenOver =>
    rw [exec_flen]
    cases Config.flOverflow with
    | reject => rw [frameLenWith_over_reject h, respondResult_none]
    | truncate => rw [frameLenWith_over_truncate h, respondResult_some_ofNat (by omega)]
  case lenFits => rw [frameLenWith_fits policy h, map_toNat_some_ofNat (by omega)]
  case lenTruncated => rw [frameLenWith_over_truncate h, map_toNat_some_ofNat (by omega)]

end Sys2Proof.Machine

/-! ### The header packer (R69, R70, R75)

A header is the sum of its fields, each at its own weight (`packHeader_toNat`), so every field is read off by one
division and one remainder. BUILD packs that header exactly when its four steps succeed. -/

namespace Sys2Proof.Machine

/-- A slice of a bit vector (R7) has a given value exactly where the division and the remainder that cut it out do. -/
theorem extractLsb'_eq_iff {w lo n : Nat} {x : BitVec w} {v : BitVec n} :
    x.extractLsb' lo n = v ↔ x.toNat / 2 ^ lo % 2 ^ n = v.toNat := by
  rw [← BitVec.toNat_inj, BitVec.extractLsb'_toNat, Nat.shiftRight_eq_div_pow]

/-- The object type codes, so that the packer's `aot - 1` does not wrap (R59). -/
theorem mapAot_code_bounds {ok : Bool} {id : Nat} {aot : BitVec 3} (h : mapAot ok id = some aot) :
    1 ≤ aot.toNat ∧ aot.toNat ≤ 4 := by
  rw [mapAot_eq, Option.ite_none_right_eq_some] at h
  obtain ⟨⟨-, h1, h4⟩, haot⟩ := h
  rw [← Option.some.inj haot, BitVec.toNat_ofNat]
  omega

section
variable {aot : BitVec 3} (sfi : BitVec 4) (ch : BitVec 3) (f : BitVec 13) (ha : 1 ≤ aot.toNat ∧ aot.toNat ≤ 4)
include ha

/-- The seven constant fields of the layout (R69), from the sync word down. -/
theorem packHeader_constantFields :
    (packHeader aot sfi ch f).extractLsb' 44 12 = 0xFFF#12 ∧ (packHeader aot sfi ch f).extractLsb' 43 1 = 0#1 ∧
      (packHeader aot sfi ch f).extractLsb' 41 2 = 0#2 ∧ (packHeader aot sfi ch f).extractLsb' 40 1 = 1#1 ∧
      (packHeader aot sfi ch f).extractLsb' 33 1 = 1#1 ∧ (packHeader aot sfi ch f).extractLsb' 26 4 = 0xF#4 ∧
      (packHeader aot sfi ch f).extractLsb' 2 11 = 0x7FF#11 ∧ (packHeader aot sfi ch f).extractLsb' 0 2 = 0#2 := by
  have hs := sfi.isLt
  have hc := ch.isLt
  have hf := f.isLt
  simp only [extractLsb'_eq_iff, packHeader_toNat _ sfi ch f ha, BitVec.reduceToNat]
  and_intros <;> omega

/-- The object type field holds the code less one, which fits its two bits (R69). -/
theorem packHeader_objectType :
    ((packHeader aot sfi ch f).extractLsb' 38 2).toNat = aot.toNat - 1 := by
  have hs := sfi.isLt
  have hc := ch.isLt
  have hf := f.isLt
  have hfits : aot.toNat - 1 < 4 := by omega
  rw [BitVec.extractLsb'_toNat, Nat.shiftRight_eq_div_pow, packHeader_toNat _ sfi ch f ha]
  generalize aot.toNat - 1 = objectType at hfits ⊢
  omega

/-- The fields that carry the sample-rate index, the frame length and the channel code (R69), which stands in two
parts (R73). -/
theorem packHeader_resultFields :
    (packHeader aot sfi ch f).extractLsb' 34 4 = sfi ∧
      (packHeader aot sfi ch f).extractLsb' 32 1 = ch.extractLsb' 2 1 ∧
      (packHeader aot sfi ch f).extractLsb' 30 2 = ch.extractLsb' 0 2 ∧
      (packHeader aot sfi ch f).extractLsb' 13 13 = f := by
  have hs := sfi.isLt
  have hc := ch.isLt
  have hf := f.isLt
  simp only [extractLsb'_eq_iff, BitVec.extractLsb'_toNat, Nat.shiftRight_eq_div_pow, packHeader_toNat _ sfi ch f ha]
  and_intros <;> omega

/-- The bytes that are the same in every header (R70). -/
theorem packHeader_constantBytes :
    headerByte (packHeader aot sfi ch f) 0 = 0xFF#8 ∧ headerByte (packHeader aot sfi ch f) 1 = 0xF1#8 ∧
      headerByte (packHeader aot sfi ch f) 6 = 0xFC#8 := by
  have hs := sfi.isLt
  have hc := ch.isLt
  have hf := f.isLt
  simp only [headerByte, extractLsb'_eq_iff, packHeader_toNat _ sfi ch f ha, BitVec.reduceToNat]
  and_intros <;> omega

/-- A header begins with byte 0xFF, so it is not the absent result's data (R22). -/
theorem packHeader_ne_zero : packHeader aot sfi ch f ≠ 0 := by
  intro h
  obtain ⟨hbyte, -, -⟩ := packHeader_constantBytes sfi ch f ha
  rw [h] at hbyte
  exact absurd hbyte (by decide)

end

section
variable {po ro co : Bool} {p hz c L : Nat}

/-- Where the four steps succeed, BUILD answers their header (R71, R72). -/
theorem exec_build_of_steps {aot : BitVec 3} {sfi : BitVec 4} {ch : BitVec 3} {f : BitVec 13} (s : State)
    (ha : mapAot po p = some aot) (hs : mapSfi ro hz = some sfi) (hc : mapCh co c = some ch)
    (hf : frameLen L = some f) :
    exec (.build po p ro hz co c L) s =
      .next { s with rspValid := true, rspOk := true, rspData := packHeader aot sfi ch f } := by
  have hbuild : buildHeader po p ro hz co c L = some (packHeader aot sfi ch f) :=
    buildHeaderWith_eq_some.mpr ⟨aot, sfi, ch, f, ha, hs, hc, hf, rfl⟩
  rw [exec_build, hbuild, respondResult_some, BitVec.setWidth_eq]

/-- A header needs its frame length (R71), so the frame length's FAIL is the builder's. -/
theorem buildHeader_eq_none_of_frameLen (h : frameLen L = none) : buildHeader po p ro hz co c L = none := by
  refine Option.eq_none_iff_forall_ne_some.mpr fun H hH => ?_
  obtain ⟨_, _, _, f, _, _, _, hf, _⟩ := buildHeaderWith_eq_some.mp hH
  exact Option.some_ne_none f (hf.symm.trans h)

/-- Whichever of the four steps FAILs, the builder does (R71). -/
theorem buildHeader_eq_none_of_step
    (h : mapAot po p = none ∨ mapSfi ro hz = none ∨ mapCh co c = none ∨ frameLen L = none) :
    buildHeader po p ro hz co c L = none := by
  rcases h with h | h | h | h
  · exact buildHeader_eq_none_of_lookup L (.inl h)
  · exact buildHeader_eq_none_of_lookup L (.inr (.inl h))
  · exact buildHeader_eq_none_of_lookup L (.inr (.inr h))
  · exact buildHeader_eq_none_of_frameLen h

end

/-- Settles O32: BUILD answers the packed header, whose fields are the terms of its sum. -/
theorem buildLaysOutEveryField : Obligations.BuildLaysOutEveryField := by
  intro s po ro co p hz c L aot sfi ch f ha hs hc hf
  have hcode := mapAot_code_bounds ha
  obtain ⟨hsync, hid, hlayer, hprot, hpriv, hstuff, hfull, hblocks⟩ := packHeader_constantFields sfi ch f hcode
  obtain ⟨hsfi, hchHigh, hchLow, hlen⟩ := packHeader_resultFields sfi ch f hcode
  exact ⟨packHeader aot sfi ch f, exec_build_of_steps s ha hs hc hf, hsync, hid, hlayer, hprot,
    packHeader_objectType sfi ch f hcode, hsfi, hpriv, hchHigh, hchLow, hstuff, hlen, hfull, hblocks,
    packHeader_constantBytes sfi ch f hcode⟩

/-- Settles O34: the header where all four steps succeed, never zero, and the absent result where any FAILs. -/
theorem buildIsAllOrNothing : Obligations.BuildIsAllOrNothing := by
  refine fun s po ro co p hz c L => ⟨fun ⟨ha, hs, hc, hf⟩ => ?header, fun h => ?absent⟩
  case header =>
    obtain ⟨aot, ha⟩ := Option.isSome_iff_exists.mp ha
    obtain ⟨sfi, hs⟩ := Option.isSome_iff_exists.mp hs
    obtain ⟨ch, hc⟩ := Option.isSome_iff_exists.mp hc
    obtain ⟨f, hf⟩ := Option.isSome_iff_exists.mp hf
    exact ⟨aot, sfi, ch, f, ha, hs, hc, hf, exec_build_of_steps s ha hs hc hf,
      packHeader_ne_zero sfi ch f (mapAot_code_bounds ha)⟩
  case absent => rw [exec_build, buildHeader_eq_none_of_step h, respondResult_none]

end Sys2Proof.Machine

/-! ### The faults a request raises, and their order (R82, R84, R86, R90)

A word the decoder refuses raises the decoder's fault and runs nothing; one it takes can raise EXTRACT_RANGE alone. -/

namespace Sys2Proof.Machine

/-- The decoder knows the seven operations and no other (R44). -/
theorem decode_eq_illegalOp_iff {w : Word} :
    decode w = .error .illegalOp ↔ field w 60 4 = 0 ∨ 8 ≤ field w 60 4 := by
  rw [decode_eq, decodeExt8, decodeExt16]
  split_ifs <;> simp <;> omega

/-- All the faults a request can record: the decoder's refusal of its word, or EXTRACT_RANGE. -/
theorem step_placeRequest_fault_cases (w : Word) {s : State} (hf : s.fault = none) :
    ∃ t, step (placeRequest w s) = .next t ∧
      (t.fault = none ∨ (∃ e, decode w = .error e ∧ t.fault = some (decodeFault w e)) ∨
        ∃ req b e W, t.fault = some (.extractRange req b e W)) := by
  cases hd : decode w with
  | error e => exact ⟨_, step_placeRequest_of_refused hf hd, .inr (.inl ⟨e, rfl, rfl⟩)⟩
  | ok i =>
    obtain ⟨t, ht, hfault⟩ := exec_fault_cases i (s := { s with inFlight := none }) hf
    exact ⟨t, by simp only [step_placeRequest w hf, hd, ht], hfault.imp_right .inr⟩

/-- Settles O5: the decoder refuses exactly the unassigned ops by that name, and nothing else raises that fault. -/
theorem illegalOpIsRaisedExactlyByUnassignedOps : Obligations.IllegalOpIsRaisedExactlyByUnassignedOps := by
  intro w s hf
  refine ⟨fun h => step_placeRequest_of_refused hf (decode_eq_illegalOp_iff.mpr h), fun h1 h7 => ?assigned⟩
  have hassigned : decode w ≠ .error .illegalOp := fun hd => by
    have := decode_eq_illegalOp_iff.mp hd
    omega
  obtain ⟨t, ht, hfault⟩ := step_placeRequest_fault_cases w hf
  refine ⟨t, ht, fun v hv => ?_⟩
  rcases hfault with h | ⟨e, hd, h⟩ | ⟨req, b, e, W, h⟩
  · simp [h] at hv
  · cases e with
    | illegalOp => exact hassigned hd
    | reservedNonzero => simp [h, decodeFault] at hv
  · simp [h] at hv

/-- Settles O8: the decoder refuses both kinds of word before the range is looked at. -/
theorem faultPriorityFollowsTheDecoder : Obligations.FaultPriorityFollowsTheDecoder := by
  refine fun w s hf => ⟨fun h => ?unassigned, fun h => ?ext8, fun h => ?ext16⟩
  case unassigned => exact ⟨_, step_placeRequest_of_refused hf (decode_eq_illegalOp_iff.mpr h), rfl⟩
  case ext8 => exact ⟨_, step_placeRequest_of_refused hf (decode_eq_reservedNonzero_iff.mpr (.inl h)), rfl⟩
  case ext16 => exact ⟨_, step_placeRequest_of_refused hf (decode_eq_reservedNonzero_iff.mpr (.inr h)), rfl⟩

theorem exec_ext8 (v : BitVec 8) (b e : Nat) (s : State) :
    exec (.ext8 v b e) s = .next (extractRequest v b e (encode (.ext8 v b e)) s) := rfl

theorem exec_ext16 (v : BitVec 16) (b e : Nat) (s : State) :
    exec (.ext16 v b e) s = .next (extractRequest v b e (encode (.ext16 v b e)) s) := rfl

section
variable {w : Word}

theorem decode_of_op_ext8 (hop : field w 60 4 = 1) (hhigh : field w 32 28 = 0) (hlow : field w 8 8 = 0) :
    decode w = .ok (.ext8 (w.extractLsb' 0 8) (field w 24 8) (field w 16 8)) := by
  simp [decode_eq, decodeExt8, hop, hhigh, hlow]

theorem decode_of_op_ext16 (hop : field w 60 4 = 2) (hhigh : field w 32 28 = 0) :
    decode w = .ok (.ext16 (w.extractLsb' 0 16) (field w 24 8) (field w 16 8)) := by
  simp [decode_eq, decodeExt16, hop, hhigh]

/-- The fields of Format X cover an EXT8 word (R40), so its instruction encodes to the word itself (log entry 7). -/
theorem encode_ext8_of_fields (hop : field w 60 4 = 1) (hhigh : field w 32 28 = 0) (hlow : field w 8 8 = 0) :
    encode (.ext8 (w.extractLsb' 0 8) (field w 24 8) (field w 16 8)) = w := by
  have := w.isLt
  apply BitVec.eq_of_toNat_eq
  simp only [encode, formatX, opField, low_eq, field_eq, BitVec.toNat_ofNat] at *
  omega

/-- So do they an EXT16 word. -/
theorem encode_ext16_of_fields (hop : field w 60 4 = 2) (hhigh : field w 32 28 = 0) :
    encode (.ext16 (w.extractLsb' 0 16) (field w 24 8) (field w 16 8)) = w := by
  have := w.isLt
  apply BitVec.eq_of_toNat_eq
  simp only [encode, formatX, opField, low_eq, field_eq, BitVec.toNat_ofNat] at *
  omega

/-- A request whose instruction is the extractor's request with its own word records EXTRACT_RANGE out of contract,
and only the request is consumed (R58, R86). -/
theorem step_placeRequest_of_extractRequest_outside {i : Instr} {W b e : Nat} {v : BitVec W} {s : State}
    (hf : s.fault = none) (hd : decode w = .ok i) (hexec : ∀ st, exec i st = .next (extractRequest v b e w st))
    (hc : b = 0 ∨ W < b ∨ e = 0 ∨ W < e) :
    step (placeRequest w s) = .next { s with inFlight := none, fault := some (.extractRange w b e W) } := by
  have hout : ¬ InContract W b e := fun ⟨_, _, _, _⟩ => by omega
  simp only [step_placeRequest w hf, hd, hexec, extractRequest_outside v w _ hout, raiseFault_eq, hf, Option.none_or]

end

/-- Settles O7: both operations are the extractor's request with the word they were decoded from, and BUILD only
responds. -/
theorem outOfContractRangeRaisesExtractRange : Obligations.OutOfContractRangeRaisesExtractRange := by
  refine ⟨fun w s hf hop hhigh hlow hc => ?ext8, fun w s hf hop hhigh hc => ?ext16,
    fun po ro co p hz c l s => ⟨_, exec_build po p ro hz co c l s, rfl⟩⟩
  case ext8 =>
    refine step_placeRequest_of_extractRequest_outside (v := w.extractLsb' 0 8) hf (decode_of_op_ext8 hop hhigh hlow)
      (fun st => ?_) hc
    rw [exec_ext8, encode_ext8_of_fields hop hhigh hlow]
  case ext16 =>
    refine step_placeRequest_of_extractRequest_outside (v := w.extractLsb' 0 16) hf (decode_of_op_ext16 hop hhigh)
      (fun st => ?_) hc
    rw [exec_ext16, encode_ext16_of_fields hop hhigh]

/-- `t` is `s` after one of the three outcomes of R82: success, status failure or a recorded fault. The request in
flight and the schedule are no part of an outcome. -/
def OneOfThreeOutcomes (s t : State) : Prop :=
  t.inFlight = s.inFlight ∧ t.schedule = s.schedule ∧
    ((t.fault = none ∧ t.rspValid = true ∧ t.rspOk = true) ∨
     (t.fault = none ∧ t.rspValid = true ∧ t.rspOk = false ∧ t.rspData = 0) ∨
     (t.fault.isSome ∧ SameResponse s t))

section
variable {s : State} (hf : s.fault = none)
include hf

theorem oneOfThreeOutcomes_raiseFault (r : FaultRecord) : OneOfThreeOutcomes s (raiseFault r s) :=
  ⟨raiseFault_inFlight r s, raiseFault_schedule r s, .inr (.inr ⟨by simp [hf], sameResponse_raiseFault r s⟩)⟩

/-- A result is success, and its absence a status failure (R17, R22). -/
theorem oneOfThreeOutcomes_respondResult {n : Nat} (result : Option (BitVec n)) :
    OneOfThreeOutcomes s (respondResult result s) := by
  cases result with
  | some r => exact ⟨rfl, rfl, .inl ⟨hf, rfl, rfl⟩⟩
  | none => exact ⟨rfl, rfl, .inr (.inl ⟨hf, rfl, rfl, rfl⟩)⟩

theorem oneOfThreeOutcomes_extractRequest {W : Nat} (v : BitVec W) (b e : Nat) (req : Word) :
    OneOfThreeOutcomes s (extractRequest v b e req s) := by
  by_cases hc : InContract W b e
  · rw [extractRequest_inside v req s hc]
    exact ⟨rfl, rfl, .inl ⟨hf, rfl, rfl⟩⟩
  · rw [extractRequest_outside v req s hc]
    exact oneOfThreeOutcomes_raiseFault hf _

theorem exec_oneOfThreeOutcomes (i : Instr) : ∃ t, exec i s = .next t ∧ OneOfThreeOutcomes s t := by
  cases i with
  | ext8 v b e | ext16 v b e => exact ⟨_, rfl, oneOfThreeOutcomes_extractRequest hf v b e _⟩
  | mapaot | mapsfi | mapch | flen | build => exact ⟨_, rfl, oneOfThreeOutcomes_respondResult hf _⟩

end

/-- Settles O15: a refused word records its fault, and any other runs one operation. -/
theorem everyRequestHasOneOfThreeOutcomes : Obligations.EveryRequestHasOneOfThreeOutcomes := by
  intro w s hf
  have hf' : ({ s with inFlight := none } : State).fault = none := hf
  rw [step_placeRequest w hf]
  cases decode w with
  | ok i => exact exec_oneOfThreeOutcomes hf' i
  | error e => exact ⟨_, rfl, oneOfThreeOutcomes_raiseFault hf' _⟩

end Sys2Proof.Machine

/-! ### A frame too long (R88) -/

namespace Sys2Proof.Machine

/-- Under REJECT the frame length FAILs, so FLEN and BUILD give the absent result. -/
theorem exec_frameTooLong_of_reject {L : Nat} (hL : 8191 < 7 + L) (hp : Config.flOverflow = .reject) (s : State)
    (po ro co : Bool) (p hz c : Nat) :
    exec (.flen L) s = .next { s with rspValid := true, rspOk := false, rspData := 0 } ∧
      exec (.build po p ro hz co c L) s = .next { s with rspValid := true, rspOk := false, rspData := 0 } := by
  have hlen : frameLenWith Config.flOverflow L = none := by rw [hp, frameLenWith_over_reject (by omega)]
  constructor
  · rw [exec_flen, hlen, respondResult_none]
  · rw [exec_build, buildHeader_eq_none_of_frameLen hlen, respondResult_none]

/-- Under TRUNCATE there is a frame length, so FLEN answers, and BUILD where the lookups resolve. -/
theorem exec_frameTooLong_of_truncate {L : Nat} (hL : 8191 < 7 + L) (hp : Config.flOverflow = .truncate) (s : State)
    (po ro co : Bool) (p hz c : Nat) :
    (∃ d, exec (.flen L) s = .next { s with rspValid := true, rspOk := true, rspData := d }) ∧
      ((mapAot po p).isSome → (mapSfi ro hz).isSome → (mapCh co c).isSome →
        ∃ d, exec (.build po p ro hz co c L) s = .next { s with rspValid := true, rspOk := true, rspData := d }) := by
  have hlen : frameLenWith Config.flOverflow L = some (BitVec.ofNat 13 ((7 + L) % 8192)) := by
    rw [hp, frameLenWith_over_truncate (by omega)]
  refine ⟨⟨_, by rw [exec_flen, hlen, respondResult_some]⟩, fun ha hs hc => ?_⟩
  obtain ⟨aot, ha⟩ := Option.isSome_iff_exists.mp ha
  obtain ⟨sfi, hs⟩ := Option.isSome_iff_exists.mp hs
  obtain ⟨ch, hc⟩ := Option.isSome_iff_exists.mp hc
  exact ⟨_, exec_build_of_steps s ha hs hc hlen⟩

/-- Settles O31: the policy decides whether a frame too long has a length at all. -/
theorem frameTooLongIsTheAbsentResultUnderReject : Obligations.FrameTooLongIsTheAbsentResultUnderReject := by
  intro s po ro co p hz c L hL
  cases hp : Config.flOverflow with
  | reject => exact exec_frameTooLong_of_reject hL hp s po ro co p hz c
  | truncate => exact exec_frameTooLong_of_truncate hL hp s po ro co p hz c

end Sys2Proof.Machine

/-! ### A reset begins a new run (R99) -/

namespace Sys2Proof.Machine

/-- A reset turn is a step, from any state (R24). -/
theorem step_reset {s : State} (ht : currentTurn s = .reset) : step s = .next (applyReset (popTurn s)) := by
  rw [step, fetch_reset ht]

/-- The responses are collected exactly where every request has one. -/
theorem mapM_response_eq_some_iff (ps : List Presented) (observation : List Response) :
    ps.mapM Presented.response = some observation ↔ ps.map Presented.response = observation.map some := by
  induction ps generalizing observation with
  | nil => cases observation <;> simp
  | cons p ps ih => cases observation <;> simp [List.mapM_cons, Option.bind_eq_some_iff, ih]

/-- A run ends well exactly when no fault is recorded and its observation lists every request's response (R106). -/
theorem runEnd_eq_well_iff (s : State) (ps : List Presented) (observation : List Response) :
    runEnd s ps = .well observation ↔ s.fault = none ∧ ps.map Presented.response = observation.map some := by
  rw [← mapM_response_eq_some_iff]
  cases hf : s.fault with
  | some r => simp [hf]
  | none => cases hm : ps.mapM Presented.response <;> simp [runEnd, hf, hm]

/-- A request without a response keeps its run from ending well. -/
theorem runEnd_ne_well_of_unanswered {p : Presented} {ps : List Presented} (hp : p ∈ ps) (hn : p.response = none)
    (s : State) (observation : List Response) : runEnd s ps ≠ .well observation := by
  intro hwell
  obtain ⟨-, hmap⟩ := (runEnd_eq_well_iff s ps observation).mp hwell
  have hmem : none ∈ observation.map some := hmap ▸ hn ▸ List.mem_map_of_mem hp
  simp at hmem

/-- Settles O45: the run cut off ends as `runEnd` says in the state the reset meets, and its end joins the runs past. -/
theorem resetBeginsANewRun : Obligations.ResetBeginsANewRun := by
  intro s h ht
  refine ⟨_, step_reset ht, rfl, readRspOk_eq_none rfl, readRspData_eq_none rfl, rfl, rfl, ?_⟩
  rw [recordTurn_reset ht]
  exact ⟨rfl, _, rfl, fun r hf => runEnd_faulted hf _, fun ⟨_, hp, hn⟩ => runEnd_ne_well_of_unanswered hp hn s⟩

end Sys2Proof.Machine

/-! ### Decoding and encoding agree (R40, R41, R48) -/

namespace Sys2Proof.Machine

/-- All the decoder accepts: an operation of the map, its reserved bits zero, with the operands of its fields. -/
theorem decode_ok_cases {w : Word} {i : Instr} (h : decode w = .ok i) :
    (field w 60 4 = 1 ∧ field w 32 28 = 0 ∧ field w 8 8 = 0 ∧
      i = .ext8 (w.extractLsb' 0 8) (field w 24 8) (field w 16 8)) ∨
    (field w 60 4 = 2 ∧ field w 32 28 = 0 ∧ i = .ext16 (w.extractLsb' 0 16) (field w 24 8) (field w 16 8)) ∨
    (field w 60 4 = 3 ∧ i = .mapaot (flag w 59) (field w 54 5)) ∨
    (field w 60 4 = 4 ∧ i = .mapsfi (flag w 53) (field w 35 18)) ∨
    (field w 60 4 = 5 ∧ i = .mapch (flag w 34) (field w 30 4)) ∨
    (field w 60 4 = 6 ∧ i = .flen (field w 0 30)) ∨
    (field w 60 4 = 7 ∧ i = .build (flag w 59) (field w 54 5) (flag w 53) (field w 35 18) (flag w 34) (field w 30 4)
      (field w 0 30)) := by
  rw [decode_eq, decodeExt8, decodeExt16] at h
  split_ifs at h <;> simp_all

/-- The fields of a Format X word are its operands, where those fit; the operand may be narrower than its field
(R40). -/
theorem formatX_fields {n op b e : Nat} (v : BitVec n) (hn : n ≤ 16) (hb : b < 2 ^ 8) (he : e < 2 ^ 8) :
    (formatX op b e v.toNat).extractLsb' 0 n = v ∧ field (formatX op b e v.toNat) 24 8 = b ∧
      field (formatX op b e v.toNat) 16 8 = e := by
  have hv : v.toNat < 2 ^ 16 := v.isLt.trans_le (Nat.pow_le_pow_right (by decide) hn)
  refine ⟨?low, ?start, ?stop⟩
  case low =>
    have hlow : (formatX op b e v.toNat).toNat % 2 ^ 16 = v.toNat := by
      rw [formatX, BitVec.toNat_ofNat]
      omega
    apply BitVec.eq_of_toNat_eq
    rw [low_eq, BitVec.toNat_ofNat, ← Nat.mod_mod_of_dvd _ (Nat.pow_dvd_pow 2 hn), hlow, Nat.mod_eq_of_lt v.isLt]
  all_goals
    rw [field_eq, formatX, BitVec.toNat_ofNat]
    omega

/-- A bit of the word as a number. -/
theorem flag_eq_iff {w : Word} {i : Nat} {b : Bool} : flag w i = b ↔ w.toNat / 2 ^ i % 2 = b.toNat := by
  rw [← flag_toNat]
  cases b <;> simp

/-- The fields of a Format H word are its operands, where those fit (R41). -/
theorem formatH_fields {op p hz c l : Nat} (po ro co : Bool) (hp : p < 2 ^ 5) (hhz : hz < 2 ^ 18) (hc : c < 2 ^ 4)
    (hl : l < 2 ^ 30) :
    flag (formatH op po p ro hz co c l) 59 = po ∧ field (formatH op po p ro hz co c l) 54 5 = p ∧
      flag (formatH op po p ro hz co c l) 53 = ro ∧ field (formatH op po p ro hz co c l) 35 18 = hz ∧
      flag (formatH op po p ro hz co c l) 34 = co ∧ field (formatH op po p ro hz co c l) 30 4 = c ∧
      field (formatH op po p ro hz co c l) 0 30 = l := by
  have := po.toNat_le
  have := ro.toNat_le
  have := co.toNat_le
  simp only [flag_eq_iff, field_eq, formatH, BitVec.toNat_ofNat]
  and_intros <;> omega

theorem wellFormed_ext8 {v : BitVec 8} {b e : Nat} :
    (Instr.ext8 v b e).wellFormed = true ↔ b < 2 ^ 8 ∧ e < 2 ^ 8 := by
  simp [Instr.wellFormed]

theorem wellFormed_ext16 {v : BitVec 16} {b e : Nat} :
    (Instr.ext16 v b e).wellFormed = true ↔ b < 2 ^ 8 ∧ e < 2 ^ 8 := by
  simp [Instr.wellFormed]

/-- Settles O2, instruction by instruction: the operation field selects the decoder's arm (`Laws.OpField`), and that
arm reads the operands back. -/
theorem decodeOfEncodeIsIdentity : Obligations.DecodeOfEncodeIsIdentity := by
  intro i hwf
  cases i with
  | ext8 v b e =>
    obtain ⟨hop, hhigh, hlow⟩ := Laws.OpField.ext8 v b e hwf
    obtain ⟨hb, he⟩ := wellFormed_ext8.mp hwf
    obtain ⟨hv, hb', he'⟩ := formatX_fields (op := 1) v (by decide) hb he
    rw [decode_of_op_ext8 hop (hhigh (by simp [opField])) (hlow rfl), encode, opField, hv, hb', he']
  | ext16 v b e =>
    obtain ⟨hop, hhigh, -⟩ := Laws.OpField.ext16 v b e hwf
    obtain ⟨hb, he⟩ := wellFormed_ext16.mp hwf
    obtain ⟨hv, hb', he'⟩ := formatX_fields (op := 2) v (by decide) hb he
    rw [decode_of_op_ext16 hop (hhigh (by simp [opField])), encode, opField, hv, hb', he']
  | mapaot ok p =>
    obtain ⟨hop, -⟩ := Laws.OpField.mapaot ok p hwf
    obtain ⟨hok, hp, -⟩ := formatH_fields (op := 3) ok false false (of_decide_eq_true hwf) (Nat.two_pow_pos 18)
      (Nat.two_pow_pos 4) (Nat.two_pow_pos 30)
    rw [decode_of_op_mapaot hop, encode, opField, hok, hp]
  | mapsfi ok hz =>
    obtain ⟨hop, -⟩ := Laws.OpField.mapsfi ok hz hwf
    obtain ⟨-, -, hok, hhz, -⟩ := formatH_fields (op := 4) false ok false (Nat.two_pow_pos 5)
      (of_decide_eq_true hwf) (Nat.two_pow_pos 4) (Nat.two_pow_pos 30)
    rw [decode_of_op_mapsfi hop, encode, opField, hok, hhz]
  | mapch ok c =>
    obtain ⟨hop, -⟩ := Laws.OpField.mapch ok c hwf
    obtain ⟨-, -, -, -, hok, hc, -⟩ := formatH_fields (op := 5) false false ok (Nat.two_pow_pos 5) (Nat.two_pow_pos 18)
      (of_decide_eq_true hwf) (Nat.two_pow_pos 30)
    rw [decode_of_op_mapch hop, encode, opField, hok, hc]
  | flen l =>
    obtain ⟨hop, -⟩ := Laws.OpField.flen l hwf
    obtain ⟨-, -, -, -, -, -, hl⟩ := formatH_fields (op := 6) false false false (Nat.two_pow_pos 5)
      (Nat.two_pow_pos 18) (Nat.two_pow_pos 4) (of_decide_eq_true hwf)
    rw [decode_of_op_flen hop, encode, opField, hl]
  | build po p ro hz co c l =>
    obtain ⟨hop, -⟩ := Laws.OpField.build po p ro hz co c l hwf
    obtain ⟨hp, hhz, hc, hl⟩ := wellFormed_build.mp hwf
    obtain ⟨hpo', hp', hro', hhz', hco', hc', hl'⟩ := formatH_fields (op := 7) po ro co hp hhz hc hl
    rw [decode_of_op_build hop, encode, opField, hpo', hp', hro', hhz', hco', hc', hl']

/-- The fields of Format H cover a BUILD word (R41), so its instruction encodes to the word itself, as an extractor
word's does (`encode_ext8_of_fields`, `encode_ext16_of_fields`). -/
theorem encode_build_of_op {w : Word} (hop : field w 60 4 = 7) :
    encode (.build (flag w 59) (field w 54 5) (flag w 53) (field w 35 18) (flag w 34) (field w 30 4) (field w 0 30)) =
      w := by
  have := w.isLt
  apply BitVec.eq_of_toNat_eq
  simp only [encode, formatH, opField, flag_toNat, field_eq, BitVec.toNat_ofNat] at *
  omega

/-- Settles O3, arm by arm of the decoder. -/
theorem decodedInstructionCarriesItsWord : Obligations.DecodedInstructionCarriesItsWord := by
  intro w i h
  rcases decode_ok_cases h with ⟨hop, hhigh, hlow, rfl⟩ | ⟨hop, hhigh, rfl⟩ | ⟨hop, rfl⟩ | ⟨hop, rfl⟩ | ⟨hop, rfl⟩ |
    ⟨hop, rfl⟩ | ⟨hop, rfl⟩
  · exact ⟨wellFormed_ext8.mpr ⟨field_lt .., field_lt ..⟩, hop.symm, fun _ => encode_ext8_of_fields hop hhigh hlow⟩
  · exact ⟨wellFormed_ext16.mpr ⟨field_lt .., field_lt ..⟩, hop.symm, fun _ => encode_ext16_of_fields hop hhigh⟩
  iterate 4 exact ⟨decide_eq_true (field_lt ..), hop.symm, by simp [opField]⟩
  · exact ⟨wellFormed_build.mpr ⟨field_lt .., field_lt .., field_lt .., field_lt ..⟩, hop.symm,
      fun _ => encode_build_of_op hop⟩

/-- Settles O1: the decoder computes on each word. -/
theorem specRequestWordsDecode : Obligations.SpecRequestWordsDecode := by
  unfold Obligations.SpecRequestWordsDecode
  decide

end Sys2Proof.Machine

/-! ### The assembler (R49)

Each form is one check, that its values fit, before one instruction; a key that is `none` has identifier 0, which
fits. -/

namespace Sys2Proof.Machine

theorem keyId_le_iff {key : Option Nat} {bound : Nat} : keyId key ≤ bound ↔ ∀ n ∈ key, n ≤ bound := by
  cases key <;> simp [keyId]

theorem ite_some_none_eq_some_iff {α : Type} {P : Prop} [Decidable P] {a b : α} :
    (if P then some a else none) = some b ↔ P ∧ b = a := by
  rw [Option.ite_none_right_eq_some, Option.some_inj, eq_comm]

/-- What the assembler accepts fits its fields (R40, R41). -/
theorem wellFormed_of_assemble {r : AsmRequest} {i : Instr} (h : assemble r = some i) : i.wellFormed = true := by
  cases r with
  | ext8 v b e =>
    obtain ⟨⟨-, hb, he⟩, rfl⟩ := ite_some_none_eq_some_iff.mp h
    exact wellFormed_ext8.mpr ⟨by omega, by omega⟩
  | ext16 v b e =>
    obtain ⟨⟨-, hb, he⟩, rfl⟩ := ite_some_none_eq_some_iff.mp h
    exact wellFormed_ext16.mpr ⟨by omega, by omega⟩
  | mapAot key | mapSfi key | mapCh key | flen l =>
    obtain ⟨hfits, rfl⟩ := ite_some_none_eq_some_iff.mp h
    exact decide_eq_true (by omega)
  | build p hz c l =>
    obtain ⟨⟨hp, hhz, hc, hl⟩, rfl⟩ := ite_some_none_eq_some_iff.mp h
    exact wellFormed_build.mpr ⟨by omega, by omega, by omega, by omega⟩

/-- Settles O39: the check of each form is its `if`, and what passes is well formed, so it decodes from its word. -/
theorem assembledWordsDecodeToTheirRequests : Obligations.AssembledWordsDecodeToTheirRequests := by
  refine ⟨fun r i h => ?accepted, fun v s e i => ite_some_none_eq_some_iff, fun v s e i => ite_some_none_eq_some_iff,
    fun p i => ?aot, fun hz i => ?sfi, fun c i => ?ch, fun l i => ite_some_none_eq_some_iff, fun p hz c l i => ?build⟩
  case accepted =>
    have hwf := wellFormed_of_assemble h
    exact ⟨hwf, by rw [assembleWord, h, Option.map_some], decodeOfEncodeIsIdentity i hwf⟩
  case aot | sfi | ch =>
    rw [← keyId_le_iff]
    exact ite_some_none_eq_some_iff
  case build =>
    rw [← keyId_le_iff, ← keyId_le_iff, ← keyId_le_iff]
    exact ite_some_none_eq_some_iff

end Sys2Proof.Machine

/-! ### The extractor's closed forms (R53-R56, R73, R74) -/

namespace Sys2Proof.Machine

/-- The extractor keeps the low `W - s + 1` bits and drops the last `W - e`: of an ordered range, the slice. -/
theorem mod_div_eq_slice {W s e : Nat} (v : Nat) (hse : s ≤ e) (he : e ≤ W) :
    v % 2 ^ (W - s + 1) / 2 ^ (W - e) = v / 2 ^ (W - e) % 2 ^ (e - s + 1) := by
  have hkept : W - s + 1 = (W - e) + (e - s + 1) := by omega
  rw [hkept, Nat.pow_add, Nat.mod_mul_right_div_self]

/-- The extractor is its closed form, at every width (R55, R57). -/
theorem extract_toNat_eq_idealExtract {W : Nat} (v : BitVec W) (s e : Nat) (h : InContract W s e) :
    (extract v s e h).toNat = idealExtract W v.toNat s e := by
  obtain ⟨-, -, -, he⟩ := id h
  rw [idealExtract]
  split_ifs with hse
  · rw [extract_toNat, mod_div_eq_slice _ hse he]
  · rw [extract_eq_zero_of_lt v h (by omega)]
    rfl

/-- Settles O22: the first form is the primitive's three steps as numbers, and it is the slice, or 0 when reversed. -/
theorem extractEqualsItsClosedForms : Obligations.ExtractEqualsItsClosedForms := by
  intro W v s e h
  refine ⟨extract_toNat v s e h, fun hse => ?_, extract_eq_zero_of_lt v h⟩
  rw [extract_toNat_eq_idealExtract, idealExtract, if_pos hse]

/-- In contract the extractor's request responds with the closed form and does nothing else. -/
theorem extractRequest_answers_idealExtract {W : Nat} (v : BitVec W) {b e : Nat} (req : Word) (s : State)
    (h : InContract W b e) :
    extractRequest v b e req s = respond true (BitVec.ofNat 56 (idealExtract W v.toNat b e)) s := by
  rw [extractRequest_inside v req s h, ← extract_toNat_eq_idealExtract v b e h, BitVec.ofNat_toNat]

/-- Settles O20: EXT8 is the extractor's request at width 8. -/
theorem ext8AnswersTheSlice : Obligations.Ext8AnswersTheSlice := fun s v _ _ ha ha' hb hb' =>
  congrArg Host.Outcome.next (extractRequest_answers_idealExtract v _ s ⟨ha, ha', hb, hb'⟩)

/-- Settles O21: EXT16 is the extractor's request at width 16. -/
theorem ext16AnswersTheSlice : Obligations.Ext16AnswersTheSlice := fun s v _ _ ha ha' hb hb' =>
  congrArg Host.Outcome.next (extractRequest_answers_idealExtract v _ s ⟨ha, ha', hb, hb'⟩)

/-- The slice of all positions is the operand (R56). -/
theorem extract_full {W : Nat} (v : BitVec W) (h : InContract W 1 W) : extract v 1 W h = v := by
  apply BitVec.eq_of_toNat_eq
  obtain ⟨-, hW, -, -⟩ := id h
  rw [extract_toNat, Nat.sub_add_cancel hW, Nat.mod_eq_of_lt v.isLt, Nat.sub_self, Nat.pow_zero, Nat.div_one]

/-- So the extractor's request over all positions responds with its operand. -/
theorem extractRequest_full {W : Nat} (v : BitVec W) (hW : 1 ≤ W) (req : Word) (s : State) :
    extractRequest v 1 W req s = respond true (v.setWidth 56) s := by
  have h : InContract W 1 W := ⟨le_rfl, hW, hW, le_rfl⟩
  rw [extractRequest_inside v req s h, extract_full v h]

/-- Settles O23: the range 1..W, at both widths. -/
theorem fullRangeExtractionIsTheIdentity : Obligations.FullRangeExtractionIsTheIdentity :=
  ⟨fun s v => congrArg Host.Outcome.next (extractRequest_full v (by decide) _ s),
    fun s v => congrArg Host.Outcome.next (extractRequest_full v (by decide) _ s)⟩

/-- Settles O38: each part is the slice of its positions. -/
theorem extractorSplitsTheStraddlingFields : Obligations.ExtractorSplitsTheStraddlingFields := by
  refine ⟨extract_ch_high, extract_ch_low, fun f h => ?_, fun f h => ?_, fun f h => ?_⟩ <;>
    simp [extract_toNat_eq_idealExtract, idealExtract]

end Sys2Proof.Machine

/-! ### The sample-rate table and unsupported metadata (R61, R62, R87) -/

namespace Sys2Proof.Machine

/-- Each frequency's code is its index, which fits the four bits of the result (R61). -/
theorem mapSfi_of_index {k : Nat} (hk : k ≤ 12) : mapSfi true (sampleRates.getD k 0) = some (BitVec.ofNat 4 k) := by
  interval_cases k <;> rfl

/-- The table's keys are the frequencies of R61, so another frequency FAILs. -/
theorem mapSfi_eq_none {ok : Bool} {hz : Nat} (h : ok = false ∨ hz ∉ sampleRates) : mapSfi ok hz = none := by
  rcases h with rfl | hmem
  · rfl
  · cases ok with
    | false => rfl
    | true =>
      have hkeys : sfiTable.map Prod.fst = sampleRates := rfl
      refine List.lookup_eq_none_iff.mpr fun p hp => ?_
      simpa using fun heq : hz = p.1 => hmem (hkeys ▸ heq ▸ List.mem_map_of_mem hp)

/-- Settles O26: an index fits the four bits of the result, and any other frequency FAILs. -/
theorem mapsfiAnswersTheTableIndex : Obligations.MapsfiAnswersTheTableIndex := by
  refine ⟨fun w => decode_of_op_mapsfi, fun s k hk => ?index, fun s ok hz h => ?absent⟩
  case index => rw [exec_mapsfi, mapSfi_of_index hk, respondResult_some_ofNat (by omega)]
  case absent => rw [exec_mapsfi, mapSfi_eq_none h, respondResult_none]

/-- Settles O29: outside its table each lookup FAILs, and all FAILs look the same (`lookupFailuresAllLookTheSame`). -/
theorem unsupportedMetadataIsTheAbsentResult : Obligations.UnsupportedMetadataIsTheAbsentResult := by
  intro s po ro co p hz c l
  obtain ⟨haot, hsfi, hch, hbuild⟩ := lookupFailuresAllLookTheSame s po ro co p hz c l
  exact ⟨fun h => haot (mapAot_eq_none h), fun h => hsfi (mapSfi_eq_none h), fun h => hch (mapCh_eq_none h),
    fun h => hbuild (h.imp mapAot_eq_none (Or.imp mapSfi_eq_none mapCh_eq_none))⟩

end Sys2Proof.Machine

/-! ### Headers as numbers (R76-R79, R81) -/

namespace Sys2Proof.Machine

theorem headerByte_toNat (H : RspData) (k : Nat) :
    (headerByte H k).toNat = H.toNat / 2 ^ (48 - 8 * k) % 2 ^ 8 := by
  rw [headerByte, BitVec.extractLsb'_toNat, Nat.shiftRight_eq_div_pow]

/-- The companion decoder on any data word, as slices of the number: a field in several bytes is the sum of its parts,
which do not overlap. -/
theorem companionDecode_eq (H : RspData) :
    companionDecode H = (H.toNat / 2 ^ 38 % 4 + 1, H.toNat / 2 ^ 34 % 16, H.toNat / 2 ^ 30 % 8,
      H.toNat / 2 ^ 13 % 2 ^ 13) := by
  have h2 := headerByte_toNat H 2
  have h3 := headerByte_toNat H 3
  have h4 := headerByte_toNat H 4
  have h5 := headerByte_toNat H 5
  have hidx : ((headerByte H 2 >>> 2) &&& 0xF).toNat = (headerByte H 2).toNat / 4 % 16 := by
    rw [BitVec.toNat_and, BitVec.toNat_ushiftRight, Nat.shiftRight_eq_div_pow]
    exact Nat.and_two_pow_sub_one_eq_mod _ 4
  have hch : (headerByte H 2 &&& 1).toNat <<< 2 ||| (headerByte H 3 >>> 6).toNat =
      (headerByte H 2).toNat % 2 * 4 + (headerByte H 3).toNat / 64 := by
    rw [BitVec.toNat_and, BitVec.toNat_ushiftRight, Nat.shiftRight_eq_div_pow,
      ← Nat.shiftLeft_add_eq_or_of_lt (by omega), Nat.shiftLeft_eq]
    exact congrArg (· * 4 + _) (Nat.and_two_pow_sub_one_eq_mod _ 1)
  have hlen : (headerByte H 3 &&& 3).toNat <<< 11 ||| (headerByte H 4).toNat <<< 3 ||| (headerByte H 5 >>> 5).toNat =
      (headerByte H 3).toNat % 4 * 2 ^ 11 + ((headerByte H 4).toNat * 8 + (headerByte H 5).toNat / 32) := by
    rw [BitVec.toNat_and, BitVec.toNat_ushiftRight, Nat.shiftRight_eq_div_pow, Nat.or_assoc,
      ← Nat.shiftLeft_add_eq_or_of_lt (i := 3) (by omega), Nat.shiftLeft_eq _ 3,
      ← Nat.shiftLeft_add_eq_or_of_lt (by omega), Nat.shiftLeft_eq]
    exact congrArg (· * 2 ^ 11 + _) (Nat.and_two_pow_sub_one_eq_mod _ 2)
  have haot : (headerByte H 2 >>> 6).toNat = (headerByte H 2).toNat / 64 := by
    rw [BitVec.toNat_ushiftRight, Nat.shiftRight_eq_div_pow]
  simp only [companionDecode, haot, hidx, hch, hlen, Prod.mk.injEq]
  omega

section
variable {aot : BitVec 3} (sfi : BitVec 4) (ch : BitVec 3) (f : BitVec 13) (ha : 1 ≤ aot.toNat ∧ aot.toNat ≤ 4)
include ha

/-- The constant bits of a header, in the four slices that the mask of R81 selects. -/
theorem packHeader_maskedSlices :
    (packHeader aot sfi ch f).extractLsb' 40 16 = 0xFFF1#16 ∧ (packHeader aot sfi ch f).extractLsb' 33 1 = 1#1 ∧
      (packHeader aot sfi ch f).extractLsb' 26 4 = 0xF#4 ∧ (packHeader aot sfi ch f).extractLsb' 0 13 = 0x1FFC#13 := by
  have hs := sfi.isLt
  have hc := ch.isLt
  have hf := f.isLt
  simp only [extractLsb'_eq_iff, packHeader_toNat _ sfi ch f ha, BitVec.reduceToNat]
  and_intros <;> omega

/-- So the companion decoder reads back what was packed (R79). -/
theorem companionDecode_packHeader :
    companionDecode (packHeader aot sfi ch f) = (aot.toNat, sfi.toNat, ch.toNat, f.toNat) := by
  have hs := sfi.isLt
  have hc := ch.isLt
  have hf := f.isLt
  have hcode : aot.toNat = aot.toNat - 1 + 1 := by omega
  rw [companionDecode_eq, packHeader_toNat _ sfi ch f ha]
  generalize aot.toNat - 1 = x at *
  simp only [ Prod.mk.injEq]
  and_intros <;> omega

end

/-- Two data words that agree on the slices the mask of R81 selects and on those it clears are equal. -/
theorem eq_of_maskSlices_eq {x y : RspData} (h0 : x.extractLsb' 0 13 = y.extractLsb' 0 13)
    (h13 : x.extractLsb' 13 13 = y.extractLsb' 13 13) (h26 : x.extractLsb' 26 4 = y.extractLsb' 26 4)
    (h30 : x.extractLsb' 30 3 = y.extractLsb' 30 3) (h33 : x.extractLsb' 33 1 = y.extractLsb' 33 1)
    (h34 : x.extractLsb' 34 6 = y.extractLsb' 34 6) (h40 : x.extractLsb' 40 16 = y.extractLsb' 40 16) : x = y := by
  have hx := x.isLt
  have hy := y.isLt
  simp only [extractLsb'_eq_iff, BitVec.extractLsb'_toNat, Nat.shiftRight_eq_div_pow] at *
  exact BitVec.eq_of_toNat_eq (by omega)

/-- A header meets the constant mask: the mask keeps its constant slices and clears the others (R81). -/
theorem and_headerMask_of_slices {H : RspData} (h40 : H.extractLsb' 40 16 = 0xFFF1#16)
    (h33 : H.extractLsb' 33 1 = 1#1) (h26 : H.extractLsb' 26 4 = 0xF#4) (h0 : H.extractLsb' 0 13 = 0x1FFC#13) :
    H &&& headerMask = headerConst := by
  apply eq_of_maskSlices_eq <;> rw [BitVec.extractLsb'_and]
  · rw [h0]; rfl
  · exact BitVec.and_zero
  · rw [h26]; rfl
  · exact BitVec.and_zero
  · rw [h33]; rfl
  · exact BitVec.and_zero
  · rw [h40]; rfl

/-- Settles O35: a header was packed from an object type code 1 to 4, and then its constant bits are those of R81. -/
theorem everyHeaderMeetsTheConstantMask : Obligations.EveryHeaderMeetsTheConstantMask := by
  intro policy po ro co p hz c L H hH
  obtain ⟨aot, sfi, ch, f, ha, -, -, -, rfl⟩ := buildHeaderWith_eq_some.mp hH
  obtain ⟨h40, h33, h26, h0⟩ := packHeader_maskedSlices sfi ch f (mapAot_code_bounds ha)
  exact ⟨and_headerMask_of_slices h40 h33 h26 h0, h40⟩

/-- A field joined by OR adds its value at its weight, where it fits below what stands already (R76). -/
theorem or_field_toNat {x : RspData} {X : Nat} (hx : x.toNat = X) (k n a : Nat) (hX : X % 2 ^ (k + n) = 0)
    (ha : a < 2 ^ n) (hk : k + n ≤ 56) : (x ||| BitVec.ofNat 56 a <<< k).toNat = X + a * 2 ^ k := by
  have hfits : a * 2 ^ k < 2 ^ (k + n) := by
    rw [Nat.pow_add, Nat.mul_comm]
    exact Nat.mul_lt_mul_of_pos_left ha (Nat.two_pow_pos k)
  have hwidth : a * 2 ^ k < 2 ^ 56 := hfits.trans_le (Nat.pow_le_pow_right (by decide) hk)
  have hshift : (BitVec.ofNat 56 a <<< k).toNat = a * 2 ^ k := by
    have ha56 : a < 2 ^ 56 := (Nat.le_mul_of_pos_right a (Nat.two_pow_pos k)).trans_lt hwidth
    rw [BitVec.toNat_shiftLeft, BitVec.toNat_ofNat, Nat.shiftLeft_eq, Nat.mod_eq_of_lt ha56, Nat.mod_eq_of_lt hwidth]
  have hdiv : 2 ^ (k + n) * (X / 2 ^ (k + n)) = X := Nat.mul_div_cancel' (Nat.dvd_of_mod_eq_zero hX)
  rw [BitVec.toNat_or, hx, hshift, ← hdiv, Nat.two_pow_add_eq_or_of_lt hfits]

/-- The closed form of R76: its fields do not overlap, so their OR is their sum. -/
theorem headerFields_toNat {p k c n : Nat} (hp : p - 1 < 2 ^ 2) (hk : k < 2 ^ 4) (hc : c < 2 ^ 3) (hn : n < 2 ^ 13) :
    ((0xFFF#56 <<< 44) ||| (1#56 <<< 40) ||| (BitVec.ofNat 56 (p - 1) <<< 38) ||| (BitVec.ofNat 56 k <<< 34) |||
      (1#56 <<< 33) ||| (BitVec.ofNat 56 c <<< 30) ||| (0xF#56 <<< 26) ||| (BitVec.ofNat 56 n <<< 13) |||
      (0x7FF#56 <<< 2)).toNat = idealHeader p k c n := by
  have h44 : (0xFFF#56 <<< 44).toNat = 0xFFF * 2 ^ 44 := rfl
  have h40 := or_field_toNat h44 40 1 1 (by omega) (by decide) (by decide)
  have h38 := or_field_toNat h40 38 2 (p - 1) (by omega) hp (by decide)
  have h34 := or_field_toNat h38 34 4 k (by omega) hk (by decide)
  have h33 := or_field_toNat h34 33 1 1 (by omega) (by decide) (by decide)
  have h30 := or_field_toNat h33 30 3 c (by omega) hc (by decide)
  have h26 := or_field_toNat h30 26 4 0xF (by omega) (by decide) (by decide)
  have h13 := or_field_toNat h26 13 13 n (by omega) hn (by decide)
  have h2 := or_field_toNat h13 2 11 0x7FF (by omega) (by decide) (by decide)
  rw [h2, idealHeader]
  omega

section
variable {p k c L : Nat} (hp1 : 1 ≤ p) (hp4 : p ≤ 4) (hk : k ≤ 12) (hc1 : 1 ≤ c) (hc7 : c ≤ 7)
include hp1 hp4

/-- The packed header of codes and a length that fit is the closed form of R76. -/
theorem packHeader_toNat_eq_idealHeader {n : Nat} (hk : k < 2 ^ 4) (hc : c < 2 ^ 3) (hn : n < 2 ^ 13) :
    (packHeader (BitVec.ofNat 3 p) (BitVec.ofNat 4 k) (BitVec.ofNat 3 c) (BitVec.ofNat 13 n)).toNat =
      idealHeader p k c n := by
  have hp : (BitVec.ofNat 3 p).toNat = p := by rw [BitVec.toNat_ofNat, Nat.mod_eq_of_lt (by omega)]
  rw [packHeader_toNat _ _ _ _ (by omega), hp, BitVec.toNat_ofNat, BitVec.toNat_ofNat, BitVec.toNat_ofNat,
    Nat.mod_eq_of_lt hk, Nat.mod_eq_of_lt hc, Nat.mod_eq_of_lt hn, idealHeader]

/-- So the companion decoder gives the codes and the length back (R79). -/
theorem companionDecode_packHeader_ofNat {n : Nat} (hk : k < 2 ^ 4) (hc : c < 2 ^ 3) (hn : n < 2 ^ 13) :
    companionDecode (packHeader (BitVec.ofNat 3 p) (BitVec.ofNat 4 k) (BitVec.ofNat 3 c) (BitVec.ofNat 13 n)) =
      (p, k, c, n) := by
  have hp : (BitVec.ofNat 3 p).toNat = p := by rw [BitVec.toNat_ofNat, Nat.mod_eq_of_lt (by omega)]
  rw [companionDecode_packHeader _ _ _ (by omega), hp, BitVec.toNat_ofNat, BitVec.toNat_ofNat, BitVec.toNat_ofNat,
    Nat.mod_eq_of_lt hk, Nat.mod_eq_of_lt hc, Nat.mod_eq_of_lt hn]

include hk hc1 hc7

/-- On supported metadata with a frame length, the builder packs the codes of the three tables (R71). -/
theorem buildHeaderWith_of_supported {policy : FlOverflow} {f : BitVec 13} (hf : frameLenWith policy L = some f) :
    buildHeaderWith policy true p true (sampleRates.getD k 0) true c L =
      some (packHeader (BitVec.ofNat 3 p) (BitVec.ofNat 4 k) (BitVec.ofNat 3 c) f) :=
  buildHeaderWith_eq_some.mpr
    ⟨_, _, _, f, mapAot_of_code hp1 hp4, mapSfi_of_index hk, mapCh_of_code hc1 hc7, hf, rfl⟩

/-- Up to L = 8184 BUILD answers that header under either policy (R72). -/
theorem exec_build_of_supported (hL : L ≤ 8184) (s : State) :
    exec (.build true p true (sampleRates.getD k 0) true c L) s = .next { s with
      rspValid := true
      rspOk := true
      rspData := packHeader (BitVec.ofNat 3 p) (BitVec.ofNat 4 k) (BitVec.ofNat 3 c) (BitVec.ofNat 13 (7 + L)) } :=
  exec_build_of_steps s (mapAot_of_code hp1 hp4) (mapSfi_of_index hk) (mapCh_of_code hc1 hc7) (frameLenWith_fits _ hL)

end

/-- Settles O33: the packed header and the closed form are the same number. -/
theorem buildAnswersTheClosedForm : Obligations.BuildAnswersTheClosedForm := by
  intro s p k c L hp1 hp4 hk hc1 hc7 hL
  rw [exec_build_of_supported hp1 hp4 hk hc1 hc7 hL]
  congr 2
  apply BitVec.eq_of_toNat_eq
  rw [packHeader_toNat_eq_idealHeader hp1 hp4 (by omega) (by omega) (by omega),
    headerFields_toNat (by omega) (by omega) (by omega) (by omega)]

/-- Settles O36: BUILD answers the packed header, which the decoder reads back. -/
theorem companionDecoderRecoversTheInputs : Obligations.CompanionDecoderRecoversTheInputs :=
  fun s _ _ _ _ hp1 hp4 hk hc1 hc7 hL => ⟨_, exec_build_of_supported hp1 hp4 hk hc1 hc7 hL s,
    companionDecode_packHeader_ofNat hp1 hp4 (by omega) (by omega) (by omega)⟩

/-- Settles O37: REJECT gives no frame length, and TRUNCATE the remainder, which the header carries. -/
theorem truncatedHeaderCarriesTheLowBits : Obligations.TruncatedHeaderCarriesTheLowBits := by
  intro p k c L hp1 hp4 hk hc1 hc7 hL
  refine ⟨?reject, _, buildHeaderWith_of_supported hp1 hp4 hk hc1 hc7 (frameLenWith_over_truncate hL),
    companionDecode_packHeader_ofNat hp1 hp4 (by omega) (by omega) (by omega)⟩
  case reject =>
    refine Option.eq_none_iff_forall_ne_some.mpr fun H hH => ?_
    obtain ⟨_, _, _, f, _, _, _, hf, _⟩ := buildHeaderWith_eq_some.mp hH
    rw [frameLenWith_over_reject hL] at hf
    exact Option.some_ne_none f hf.symm

end Sys2Proof.Machine

/-! ### Turns, and the frame of an instruction (R99, R103) -/

namespace Sys2Proof.Machine

/-- Settles O11: a reset turn is a step from any state, to the values of reset with the turns to come. -/
theorem resetDiscardsTheRequestInFlight : Obligations.ResetDiscardsTheRequestInFlight := by
  intro s rest hs
  have ht : currentTurn s = .reset := by rw [currentTurn, hs, List.headD_cons]
  refine ⟨_, step_reset ht, rfl, readRspOk_eq_none rfl, readRspData_eq_none rfl, rfl, rfl, ?_⟩
  rw [applyReset_schedule, popTurn_schedule, hs, List.tail_cons]

theorem step_present {s : State} {w : Word} {rest : List Turn} (hf : s.fault = none)
    (hs : s.schedule = .present w :: rest) : step s = acceptRequest w { s with schedule := rest } := by
  rw [step, fetch_running hf]
  simp [currentTurn, popTurn, hs, takeTurn]

/-- The block idles where nothing is in flight. -/
theorem step_idle {s : State} (hf : s.fault = none) (ht : currentTurn s = .block) (hq : s.inFlight = none) :
    step s = .next (popTurn s) := by
  rw [step, fetch_running hf, ht, takeTurn, blockTurn, popTurn_inFlight, hq]

/-- The block's turn with a request in flight is the step of that request placed after it. -/
theorem step_block {s : State} {w : Word} (hf : s.fault = none) (ht : currentTurn s = .block)
    (hq : s.inFlight = some w) : step s = step (placeRequest w (popTurn s)) := by
  have hplaced : currentTurn (placeRequest w (popTurn s)) = .block := rfl
  rw [step, step, fetch_running hf, fetch_running (s := placeRequest w (popTurn s)) hf, ht, hplaced, takeTurn, takeTurn,
    blockTurn, blockTurn, popTurn_inFlight, popTurn_inFlight, hq]
  rfl

/-- Settles O19: an acceptance, a refusal and an idle turn. -/
theorem oneRequestIsOutstandingAtATime : Obligations.OneRequestIsOutstandingAtATime := by
  refine ⟨fun s w rest hf hs hq => ?accepted, fun s w v rest hf hs hq => ?refused, fun s hf ht hq => step_idle hf ht hq⟩
  case accepted => rw [step_present hf hs, acceptRequest, hq]
  case refused => rw [step_present hf hs, acceptRequest, hq]

/-- Settles O18: the block's turn is the step of a placed request, which runs what its word decodes to. -/
theorem stepRunsTheDecodedInstruction : Obligations.StepRunsTheDecodedInstruction := by
  intro s w i hf ht hq hd
  rw [step_block hf ht hq, step_placeRequest w (s := popTurn s) hf, hd]
  rfl

/-- All the extractor's request does: a response in contract, the record of EXTRACT_RANGE outside it. -/
theorem extractRequest_frame {W : Nat} (v : BitVec W) (b e : Nat) (req : Word) (s : State) :
    (∃ ok d, extractRequest v b e req s = { s with rspValid := true, rspOk := ok, rspData := d }) ∨
      (¬ InContract W b e ∧
        extractRequest v b e req s = { s with fault := s.fault.or (some (.extractRange req b e W)) }) := by
  by_cases hc : InContract W b e
  · exact .inl ⟨true, _, extractRequest_inside v req s hc⟩
  · exact .inr ⟨hc, by rw [extractRequest_outside v req s hc, raiseFault_eq]⟩

/-- Settles O17: EXT8 and EXT16 are extractor requests, and the other operations respond with a result. -/
theorem instructionsWriteTheResponseOrTheFaultAlone : Obligations.InstructionsWriteTheResponseOrTheFaultAlone := by
  intro i s
  cases i with
  | ext8 v b e =>
    rcases extractRequest_frame v b e (encode (.ext8 v b e)) s with ⟨ok, d, h⟩ | ⟨hc, h⟩
    · exact .inl ⟨ok, d, by rw [exec_ext8, h]⟩
    · exact .inr (.inl ⟨v, b, e, rfl, hc, by rw [exec_ext8, h]⟩)
  | ext16 v b e =>
    rcases extractRequest_frame v b e (encode (.ext16 v b e)) s with ⟨ok, d, h⟩ | ⟨hc, h⟩
    · exact .inl ⟨ok, d, by rw [exec_ext16, h]⟩
    · exact .inr (.inr ⟨v, b, e, rfl, hc, by rw [exec_ext16, h]⟩)
  | mapaot | mapsfi | mapch | flen | build => exact .inl ⟨_, _, rfl⟩

end Sys2Proof.Machine

/-! ### The invariant of the response interface and the fault record (R22, R51, R81, R83)

It speaks of the response registers and FAULT alone, and a response or a fault is the one way a step writes them. -/

namespace Sys2Proof.Machine

/-- A record speaks of the state through `rsp_valid` alone. -/
theorem FaultRecord.Truthful.congr {s t : State} {r : FaultRecord} (hr : FaultRecord.Truthful s r)
    (hv : t.rspValid = s.rspValid) : FaultRecord.Truthful t r := by
  cases r with
  | unwrittenRead f => exact ⟨hv.trans hr.1, hr.2⟩
  | illegalOp | reservedNonzero | extractRange => exact hr

theorem State.Inv.congr {s t : State} (hs : s.Inv) (hsame : SameResponse s t) (hf : t.fault = s.fault) : t.Inv := by
  obtain ⟨habsent, hresult, hfault⟩ := hs
  obtain ⟨hv, hok, hd⟩ := hsame
  refine ⟨?_, ?_, fun r hr => (hfault r (hf ▸ hr)).congr hv⟩
  · rwa [hv, hok, hd]
  · rwa [hv, hok, hd]

/-- A reset leaves no response and no record, of which alone the invariant speaks. -/
theorem inv_applyReset (s : State) : (applyReset s).Inv := ⟨nofun, nofun, nofun⟩

/-- Settles O41: the state after reset is that of a reset turn, with no turns to come. -/
theorem invariantHoldsAtReset : Obligations.InvariantHoldsAtReset := inv_applyReset State.reset

/-- A refused word is what its fault says of it (R84, R85). -/
theorem truthful_decodeFault {s : State} {w : Word} {e : DecodeError} (hd : decode w = .error e) :
    FaultRecord.Truthful s (decodeFault w e) := by
  cases e with
  | illegalOp => exact decode_eq_illegalOp_iff.mp hd
  | reservedNonzero => exact decode_eq_reservedNonzero_iff.mp hd

section
variable {s : State} (hf : s.fault = none)
include hf

/-- The absent result shows all zeros, and a result is narrow or meets the constant mask. -/
theorem inv_respondResult {n : Nat} (result : Option (BitVec n))
    (h : ∀ r, result = some r → (r.setWidth 56).toNat < 2 ^ 16 ∨ r.setWidth 56 &&& headerMask = headerConst) :
    (respondResult result s).Inv := by
  cases result with
  | none => exact ⟨fun _ _ => rfl, nofun, by simp [respondResult, hf]⟩
  | some r => exact ⟨nofun, fun _ _ => h r rfl, by simp [respondResult, hf]⟩

theorem inv_respondResult_of_narrow {n : Nat} (hn : n ≤ 16) (result : Option (BitVec n)) :
    (respondResult result s).Inv := by
  refine inv_respondResult hf result fun r _ => .inl ?_
  have hr : r.toNat < 2 ^ 16 := r.isLt.trans_le (Nat.pow_le_pow_right (by decide) hn)
  rw [BitVec.toNat_setWidth]
  exact (Nat.mod_le _ _).trans_lt hr

theorem inv_raiseFault {r : FaultRecord} (hs : s.Inv) (hr : FaultRecord.Truthful s r) : (raiseFault r s).Inv := by
  obtain ⟨habsent, hresult, -⟩ := hs
  rw [raiseFault_eq, hf]
  exact ⟨habsent, hresult, fun r' hr' => Option.some.inj hr' ▸ hr.congr rfl⟩

/-- A read before the first response records just that (R25). -/
theorem inv_hostRead (f : RspField) (hs : s.Inv) : (hostRead f s).Inv := by
  rcases hostRead_cases f s with h | ⟨hv, hne, h⟩ <;> rw [h]
  · exact hs
  · exact inv_raiseFault hf hs ⟨hv, hne⟩

theorem inv_extractRequest {W : Nat} (hW : W ≤ 16) (v : BitVec W) {b e : Nat} {req : Word} (hs : s.Inv)
    (hr : ¬ InContract W b e → FaultRecord.Truthful s (.extractRange req b e W)) :
    (extractRequest v b e req s).Inv := by
  by_cases hc : InContract W b e
  · rw [extractRequest_inside v req s hc]
    exact inv_respondResult_of_narrow hf hW (some (extract v b e hc))
  · rw [extractRequest_outside v req s hc]
    exact inv_raiseFault hf hs (hr hc)

/-- Each operation keeps the invariant where its word is the one decoded, which EXTRACT_RANGE records. -/
theorem exec_keeps_inv {w : Word} {i : Instr} (hs : s.Inv) (hd : decode w = .ok i) :
    ∃ t, exec i s = .next t ∧ t.Inv := by
  rcases decode_ok_cases hd with ⟨hop, hhigh, hlow, rfl⟩ | ⟨hop, hhigh, rfl⟩ | ⟨-, rfl⟩ | ⟨-, rfl⟩ | ⟨-, rfl⟩ |
    ⟨-, rfl⟩ | ⟨-, rfl⟩
  · refine ⟨_, exec_ext8 .., ?_⟩
    rw [encode_ext8_of_fields hop hhigh hlow]
    exact inv_extractRequest hf (by decide) _ hs fun hc => ⟨.inl ⟨rfl, hop⟩, hhigh, rfl, rfl, hc⟩
  · refine ⟨_, exec_ext16 .., ?_⟩
    rw [encode_ext16_of_fields hop hhigh]
    exact inv_extractRequest hf (by decide) _ hs fun hc => ⟨.inr ⟨rfl, hop⟩, hhigh, rfl, rfl, hc⟩
  · exact ⟨_, exec_mapaot .., inv_respondResult_of_narrow hf (by decide) _⟩
  · exact ⟨_, exec_mapsfi .., inv_respondResult_of_narrow hf (by decide) _⟩
  · exact ⟨_, exec_mapch .., inv_respondResult_of_narrow hf (by decide) _⟩
  · exact ⟨_, exec_flen .., inv_respondResult_of_narrow hf (by decide) _⟩
  · refine ⟨_, exec_build .., inv_respondResult hf _ fun H hH => .inr ?_⟩
    rw [BitVec.setWidth_eq]
    exact (everyHeaderMeetsTheConstantMask _ _ _ _ _ _ _ _ H hH).1

end

/-- Settles O42, turn by turn. -/
theorem everyStepKeepsTheInvariant : Obligations.EveryStepKeepsTheInvariant := by
  intro s t hs h
  have hpop : (popTurn s).Inv := hs.congr (.refl s) rfl
  rcases step_cases h with ⟨-, rfl⟩ | ⟨hf, ⟨w, -, -, rfl⟩ | ⟨f, -, rfl⟩ | ⟨-, -, rfl⟩ | ⟨w, e, -, -, hd, rfl⟩ |
    ⟨w, i, -, -, hd, he⟩⟩
  · exact inv_applyReset _
  · exact hs.congr (.refl s) rfl
  · exact inv_hostRead (s := popTurn s) hf f hpop
  · exact hpop
  · exact inv_raiseFault (s := { popTurn s with inFlight := none }) hf (hs.congr (.refl s) rfl)
      (truthful_decodeFault hd)
  · obtain ⟨t', ht', hinv⟩ := exec_keeps_inv (s := { popTurn s with inFlight := none }) hf (hs.congr (.refl s) rfl) hd
    rw [ht'] at he
    injection he with he
    exact he ▸ hinv

end Sys2Proof.Machine

/-! ### The closed forms (R55, R59, R61, R63, R66, R76)

Each meaning, as a number, is its closed form on the same operands; so what a word decodes to answers the closed form
on the word's own bits. -/

namespace Sys2Proof.Machine

/-- Each bit range of a word is the decoder's field. -/
theorem bitsOf_eq_field (w : Word) (lo n : Nat) : bitsOf w lo n = field w lo n := (field_eq w lo n).symm

theorem field_one_eq_flag (w : Word) (i : Nat) : field w i 1 = (flag w i).toNat := by
  rw [field_eq, Nat.pow_one, flag_toNat]

theorem map_toNat_mapAot (ok : Bool) (id : Nat) : (mapAot ok id).map BitVec.toNat = idealAot ok.toNat id := by
  rw [mapAot_eq, idealAot]
  simp only [Bool.toNat_eq_one]
  split_ifs with h
  · exact map_toNat_some_ofNat (by omega)
  · rfl

theorem map_toNat_mapCh (ok : Bool) (id : Nat) : (mapCh ok id).map BitVec.toNat = idealCh ok.toNat id := by
  rw [mapCh_eq, idealCh]
  simp only [Bool.toNat_eq_one]
  split_ifs with h
  · exact map_toNat_some_ofNat (by omega)
  · rfl

theorem map_toNat_mapSfi (ok : Bool) (hz : Nat) : (mapSfi ok hz).map BitVec.toNat = idealSfi ok.toNat hz := by
  rw [idealSfi]
  simp only [Bool.toNat_eq_one]
  split_ifs with h
  · obtain ⟨rfl, hmem⟩ := h
    have hidx : sampleRates.idxOf hz < sampleRates.length := List.idxOf_lt_length_of_mem hmem
    have hget : sampleRates.getD (sampleRates.idxOf hz) 0 = hz := by
      rw [List.getD_eq_getElem _ _ hidx, List.getElem_idxOf]
    have hmap := mapSfi_of_index (Nat.le_of_lt_succ hidx)
    rw [hget] at hmap
    rw [hmap, map_toNat_some_ofNat (hidx.trans (by decide))]
  · have hne : ok = false ∨ hz ∉ sampleRates := by cases ok <;> simp_all
    rw [mapSfi_eq_none hne, Option.map_none]

theorem map_toNat_frameLenWith (policy : FlOverflow) (L : Nat) :
    (frameLenWith policy L).map BitVec.toNat = idealFrame policy L := by
  rw [idealFrame]
  split_ifs with hL hp
  · rw [frameLenWith_fits policy hL, map_toNat_some_ofNat (by omega)]
  · rw [hp, frameLenWith_over_truncate (by omega), map_toNat_some_ofNat (by omega)]
  · rw [frameLenWith_over policy (by omega), if_neg hp, Option.map_none]

/-- The builder's four steps, each by its closed form, and the header as the sum of its fields (R71, R76). -/
theorem map_toNat_buildHeaderWith (policy : FlOverflow) (po ro co : Bool) (p hz c L : Nat) :
    (buildHeaderWith policy po p ro hz co c L).map BitVec.toNat =
      (idealAot po.toNat p).bind fun a => (idealSfi ro.toNat hz).bind fun i => (idealCh co.toNat c).bind fun k =>
        (idealFrame policy L).bind fun n => some (idealHeader a i k n) := by
  rw [← map_toNat_mapAot, ← map_toNat_mapSfi, ← map_toNat_mapCh, ← map_toNat_frameLenWith, buildHeaderWith]
  cases ha : mapAot po p with
  | none => rfl
  | some aot =>
    cases mapSfi ro hz <;> cases mapCh co c <;> cases frameLenWith policy L <;>
      simp [packHeader_toNat _ _ _ _ (mapAot_code_bounds ha), idealHeader]

/-- A response with a result is the closed form's response with the same number (R22, R51). -/
theorem respondResult_eq_idealRespond {n : Nat} {result : Option (BitVec n)} {r : Option Nat}
    (h : result.map BitVec.toNat = r) (s : State) :
    respondResult result s = applyAnswer (.ok (idealRespond r)) s := by
  subst h
  cases result with
  | none => rfl
  | some b => rw [respondResult_some, ← BitVec.ofNat_toNat]; rfl

/-- The extractor's request on a word's own fields is its closed form on the word (R55, R58). -/
theorem extractRequest_eq_idealExtractAnswer (w : Word) (W : Nat) (s : State) :
    extractRequest (w.extractLsb' 0 W) (field w 24 8) (field w 16 8) w s = applyAnswer (idealExtractAnswer w W) s := by
  simp only [idealExtractAnswer, bitsOf_eq_field]
  split_ifs with hout
  · have hc : ¬ InContract W (field w 24 8) (field w 16 8) := fun ⟨_, _, _, _⟩ => by omega
    rw [extractRequest_outside _ w s hc, applyAnswer_error]
  · rw [extractRequest_answers_idealExtract _ w s ⟨by omega, by omega, by omega, by omega⟩]
    rfl

/-- A word the decoder refuses has its fault for an answer (R84, R85). -/
theorem idealAnswer_of_refused (policy : FlOverflow) {w : Word} {e : DecodeError} (hd : decode w = .error e) :
    idealAnswer policy w = .error (decodeFault w e) := by
  simp only [idealAnswer, bitsOf_eq_field]
  cases e with
  | illegalOp =>
    have hop := decode_eq_illegalOp_iff.mp hd
    repeat rw [if_neg (by omega)]
    rfl
  | reservedNonzero =>
    rcases decode_eq_reservedNonzero_iff.mp hd with ⟨hop, hset⟩ | ⟨hop, hset⟩
    · rw [if_pos hop, if_pos hset]
      rfl
    · rw [if_neg (by omega), if_pos hop, if_pos hset]
      rfl

/-- Any other word's instruction answers the word's closed form. -/
theorem exec_answers_idealAnswer {w : Word} {i : Instr} (hd : decode w = .ok i) (s : State) :
    exec i s = .next (applyAnswer (idealAnswer Config.flOverflow w) s) := by
  rcases decode_ok_cases hd with ⟨hop, hhigh, hlow, rfl⟩ | ⟨hop, hhigh, rfl⟩ | ⟨hop, rfl⟩ | ⟨hop, rfl⟩ | ⟨hop, rfl⟩ |
    ⟨hop, rfl⟩ | ⟨hop, rfl⟩
  · rw [exec_ext8, encode_ext8_of_fields hop hhigh hlow, extractRequest_eq_idealExtractAnswer]
    simp [idealAnswer, bitsOf_eq_field, hop, hhigh, hlow]
  · rw [exec_ext16, encode_ext16_of_fields hop hhigh, extractRequest_eq_idealExtractAnswer]
    simp [idealAnswer, bitsOf_eq_field, hop, hhigh]
  · rw [exec_mapaot, respondResult_eq_idealRespond (map_toNat_mapAot ..)]
    simp [idealAnswer, bitsOf_eq_field, field_one_eq_flag, hop]
  · rw [exec_mapsfi, respondResult_eq_idealRespond (map_toNat_mapSfi ..)]
    simp [idealAnswer, bitsOf_eq_field, field_one_eq_flag, hop]
  · rw [exec_mapch, respondResult_eq_idealRespond (map_toNat_mapCh ..)]
    simp [idealAnswer, bitsOf_eq_field, field_one_eq_flag, hop]
  · rw [exec_flen, respondResult_eq_idealRespond (map_toNat_frameLenWith ..)]
    simp [idealAnswer, bitsOf_eq_field, hop]
  · rw [exec_build, buildHeader, respondResult_eq_idealRespond (map_toNat_buildHeaderWith ..)]
    simp [idealAnswer, bitsOf_eq_field, field_one_eq_flag, hop, overflowPolicy]

/-- Settles O43: a refused word records its fault, and any other's instruction answers its closed form. -/
theorem stepRefinesTheClosedForms : Obligations.StepRefinesTheClosedForms := by
  intro w s hf
  rw [step_placeRequest w hf]
  cases hd : decode w with
  | ok i => exact exec_answers_idealAnswer hd _
  | error e => rw [idealAnswer_of_refused _ hd, applyAnswer_error]

end Sys2Proof.Machine

/-! ### A run's history in account of its requests (R35, R103)

Without a fault recorded, to be in account is one of two things: every request is answered, or all but the last, which
is in flight. Each turn keeps it one of the two, or records the last request's fault. -/

namespace Sys2Proof.Machine

/-- The block completes a request in flight with its closed-form answer, whatever turns follow. -/
theorem step_completes {s : State} {w : Word} (hf : s.fault = none) (ht : currentTurn s = .block)
    (hq : s.inFlight = some w) :
    step s = .next (applyAnswer (idealAnswer Config.flOverflow w) { popTurn s with inFlight := none }) := by
  rw [step_block hf ht hq, stepRefinesTheClosedForms w (popTurn s) hf]

/-- The request has completed with its own closed-form answer. -/
def Answered (p : Presented) : Prop := ∃ r, p.response = some r ∧ idealAnswer Config.flOverflow p.req = .ok r

theorem accounts_of_answered {s : State} {h : RunHistory} (hq : s.inFlight = none)
    (hall : ∀ p ∈ h.current, Answered p) : h.Accounts s := by
  refine ⟨h.current, [], (List.append_nil _).symm, hall, ?_⟩
  rw [hq]
  exact .inl rfl

theorem accounts_of_inFlight {s : State} {h : RunHistory} {w : Word} {done : List Presented}
    (hq : s.inFlight = some w) (hcur : h.current = done ++ [⟨w, none⟩]) (hall : ∀ p ∈ done, Answered p) :
    h.Accounts s := by
  refine ⟨done, _, hcur, hall, ?_⟩
  rw [hq]

theorem accounts_of_faulted {s : State} {h : RunHistory} {w : Word} {r : FaultRecord} {done : List Presented}
    (hq : s.inFlight = none) (hf : s.fault = some r) (hcur : h.current = done ++ [⟨w, none⟩])
    (hall : ∀ p ∈ done, Answered p) (hw : idealAnswer Config.flOverflow w = .error r) : h.Accounts s := by
  refine ⟨done, _, hcur, hall, ?_⟩
  rw [hq]
  exact .inr ⟨w, r, rfl, hf, hw⟩

section
variable {s : State} {h : RunHistory} (hacc : h.Accounts s)
include hacc

/-- With a request in flight, all before it are answered. -/
theorem RunHistory.Accounts.of_inFlight {w : Word} (hq : s.inFlight = some w) :
    ∃ done, h.current = done ++ [⟨w, none⟩] ∧ ∀ p ∈ done, Answered p := by
  obtain ⟨done, pending, hcur, hall, hpending⟩ := hacc
  rw [hq] at hpending
  exact ⟨done, hpending ▸ hcur, hall⟩

section
variable (hf : s.fault = none)
include hf

/-- With none in flight and no fault, all are answered. -/
theorem RunHistory.Accounts.answered (hq : s.inFlight = none) : ∀ p ∈ h.current, Answered p := by
  obtain ⟨done, pending, hcur, hall, hpending⟩ := hacc
  rw [hq] at hpending
  rcases hpending with rfl | ⟨w, r, -, hr, -⟩
  · rwa [hcur, List.append_nil]
  · simp [hf] at hr

/-- A turn that leaves the request in flight and the history as they are keeps it in account. -/
theorem RunHistory.Accounts.keep {t : State} (hq : t.inFlight = s.inFlight) : h.Accounts t := by
  cases hs : s.inFlight with
  | none => exact accounts_of_answered (hq.trans hs) (hacc.answered hf hs)
  | some w =>
    obtain ⟨done, hcur, hall⟩ := hacc.of_inFlight hs
    exact accounts_of_inFlight (hq.trans hs) hcur hall

/-- An accepted request is the last, and in flight. -/
theorem RunHistory.Accounts.present {t : State} {w : Word} (hs : s.inFlight = none) (ht : t.inFlight = some w) :
    RunHistory.Accounts t ⟨h.past, h.current ++ [⟨w, none⟩]⟩ :=
  accounts_of_inFlight ht rfl (hacc.answered hf hs)

/-- A completed request has its own answer, or has raised the fault recorded. -/
theorem RunHistory.Accounts.complete {w : Word} (hq : s.inFlight = some w) (ht : currentTurn s = .block) :
    let t := applyAnswer (idealAnswer Config.flOverflow w) { popTurn s with inFlight := none }
    (recordTurn s t h).Accounts t := by
  intro t
  obtain ⟨done, hcur, hall⟩ := hacc.of_inFlight hq
  rw [recordTurn_block ht hq]
  cases hw : idealAnswer Config.flOverflow w with
  | ok r =>
    have hrec : recordCompletion t w h.current = done ++ [⟨w, some r⟩] := by
      simp [t, hw, recordCompletion, applyAnswer, hf, hcur, response]
    refine accounts_of_answered (by simp [t, hw, applyAnswer]) fun p hp => ?_
    rcases List.mem_append.mp (hrec ▸ hp) with hp | hp
    · exact hall p hp
    · rw [List.mem_singleton.mp hp]
      exact ⟨r, rfl, hw⟩
  | error r =>
    have hfault : t.fault = some r := by simp [t, hw, applyAnswer, hf]
    refine accounts_of_faulted (by simp [t, hw, applyAnswer]) hfault ?_ hall hw
    simp [recordCompletion, hfault, hcur]

end

end

/-- Settles O47, turn by turn. -/
theorem everyStepKeepsTheHistoryInAccount : Obligations.EveryStepKeepsTheHistoryInAccount := by
  intro s t h hacc hs
  rcases step_cases hs with ⟨ht, rfl⟩ | ⟨hf, ⟨w, ht, hq, rfl⟩ | ⟨f, ht, rfl⟩ | ⟨ht, hq, rfl⟩ | ⟨w, e, ht, hq, -⟩ |
    ⟨w, i, ht, hq, -⟩⟩
  · rw [recordTurn_reset ht]
    exact accounts_of_answered rfl (by simp)
  · rw [recordTurn_present ht]
    exact hacc.present hf hq rfl
  · rw [recordTurn_read ht]
    refine hacc.keep hf ?_
    rcases hostRead_cases f (popTurn s) with h | ⟨-, -, h⟩ <;> simp [h]
  · rw [recordTurn_idle ht hq]
    exact hacc.keep hf rfl
  all_goals
    obtain rfl := Host.Outcome.next.inj ((step_completes hf ht hq).symm.trans hs)
    exact hacc.complete hf hq ht

end Sys2Proof.Machine

/-! ### Runs and their ends (R99, R105, R106) -/

namespace Sys2Proof.Machine

/-- A run starts in account: its one request, if any, is in flight. -/
theorem accounts_startHistory (s : State) : (startHistory s).Accounts s := by
  cases hq : s.inFlight with
  | none => exact accounts_of_answered hq (by simp [hq])
  | some w => exact accounts_of_inFlight (done := []) hq (by simp [hq]) (by simp)

/-- Every number of turns keeps the history in account, also past a fault. -/
theorem followRun_accounts (k : Nat) {s : State} {h : RunHistory} (hacc : h.Accounts s) :
    (followRun k s h).2.Accounts (followRun k s h).1 := by
  induction k generalizing s h with
  | zero => exact hacc
  | succ k ih =>
    cases hs : step s with
    | next t =>
      rw [followRun_next hs]
      exact ih (everyStepKeepsTheHistoryInAccount s t h hacc hs)
    | fault r =>
      have hpass : followRun (k + 1) s h = followRun k (popTurn s) h := by rw [followRun, hs]
      rw [hpass]
      exact ih (s := popTurn s) hacc
    | refused r => rwa [followRun_refused hs]

/-- Answered requests have their closed-form answers for responses, in order. -/
theorem mapM_idealAnswer_of_answered {ps : List Presented} {observation : List Response}
    (hall : ∀ p ∈ ps, Answered p) (hps : ps.map Presented.response = observation.map some) :
    (ps.map Presented.req).mapM (idealAnswer Config.flOverflow) = .ok observation := by
  induction ps generalizing observation with
  | nil => cases observation <;> simp_all [pure, Except.pure]
  | cons p ps ih =>
    obtain ⟨hp, hrest⟩ := List.forall_mem_cons.mp hall
    obtain ⟨r, hr, hideal⟩ := hp
    cases observation with
    | nil => simp at hps
    | cons r' observation =>
      rw [List.map_cons, List.map_cons, hr] at hps
      injection hps with hhead htail
      rw [List.map_cons, List.mapM_cons, hideal, ih hrest htail, Option.some.inj hhead]
      rfl

/-- A run in account that ends well has all its requests answered. -/
theorem RunHistory.Accounts.answered_of_well {s : State} {h : RunHistory} (hacc : h.Accounts s)
    {observation : List Response} (hwell : runEnd s h.current = .well observation) : ∀ p ∈ h.current, Answered p := by
  obtain ⟨hf, -⟩ := (runEnd_eq_well_iff ..).mp hwell
  cases hq : s.inFlight with
  | none => exact hacc.answered hf hq
  | some w =>
    obtain ⟨done, hcur, -⟩ := hacc.of_inFlight hq
    have hmem : ⟨w, none⟩ ∈ h.current := by simp [hcur]
    exact absurd hwell (runEnd_ne_well_of_unanswered hmem rfl s observation)

/-- Settles O48: the start is in account and every step keeps it so; a well end leaves no request unanswered. -/
theorem everyRunIsItsRequestsAnswers : Obligations.EveryRunIsItsRequestsAnswers := by
  intro k s _
  have hacc := followRun_accounts k (accounts_startHistory s)
  refine ⟨hacc, fun observation hwell => ?_⟩
  obtain ⟨-, hmap⟩ := (runEnd_eq_well_iff ..).mp hwell
  exact mapM_idealAnswer_of_answered (hacc.answered_of_well hwell) hmap

/-- Two turns present and complete a request, whose response, if it has one, joins the history. -/
theorem followRun_request {s : State} {w : Word} {rest : List Turn} (hf : s.fault = none) (hq : s.inFlight = none)
    (hs : s.schedule = .present w :: rest) (hrest : rest.headD .block = .block) (k : Nat) (h : RunHistory) :
    followRun (k + 2) s h =
      followRun k (applyAnswer (idealAnswer Config.flOverflow w) { s with schedule := rest.tail })
        ⟨h.past, h.current ++ [⟨w, (idealAnswer Config.flOverflow w).toOption⟩]⟩ := by
  have ht : currentTurn s = .present w := by rw [currentTurn, hs, List.headD_cons]
  have haccept : step s = .next { s with inFlight := some w, schedule := rest } := by
    rw [step_present hf hs, acceptRequest, hq]
  have hcomplete := step_completes (s := { s with inFlight := some w, schedule := rest }) hf hrest rfl
  have hidle : ({ popTurn { s with inFlight := some w, schedule := rest } with inFlight := none } : State) =
      { s with schedule := rest.tail } := by simp [popTurn, hq]
  rw [hidle] at hcomplete
  rw [followRun_next haccept, recordTurn_present ht, followRun_next hcomplete,
    recordTurn_block (s := { s with inFlight := some w, schedule := rest }) hrest rfl]
  cases idealAnswer Config.flOverflow w with
  | ok r => simp [recordCompletion, applyAnswer, hf, response, Except.toOption]
  | error r => simp [recordCompletion, applyAnswer, hf, Except.toOption]

theorem straightLine_cons (w : Word) (ws : List Word) :
    straightLine (w :: ws) = .present w :: .block :: straightLine ws := rfl

/-- What a straight-line run's end says of the answers of its requests, after the responses before. -/
def straightLineEnd (before : List Response) (answers : Except FaultRecord (List Response)) : RunEnd :=
  match answers with
  | .ok observation => .well (before ++ observation)
  | .error r => .faulted r

/-- A straight-line program's turns stay in one run, which ends well with its requests' answers or with their first
fault. -/
theorem followRun_straightLine (ws : List Word) {s : State} {h : RunHistory} {before : List Response}
    (hf : s.fault = none) (hq : s.inFlight = none) (hs : s.schedule = straightLine ws)
    (hbefore : h.current.map Presented.response = before.map some) :
    (followRun ((straightLine ws).length + 1) s h).2.past = h.past ∧
      runEnd (followRun ((straightLine ws).length + 1) s h).1
          (followRun ((straightLine ws).length + 1) s h).2.current =
        straightLineEnd before (ws.mapM (idealAnswer Config.flOverflow)) := by
  induction ws generalizing s h before with
  | nil =>
    have ht : currentTurn s = .block := by rw [currentTurn, hs]; rfl
    have hidle : followRun ((straightLine []).length + 1) s h = (popTurn s, h) := by
      rw [followRun_next (step_idle hf ht hq), recordTurn_idle ht hq]; rfl
    rw [hidle, List.mapM_nil]
    exact ⟨rfl, (runEnd_eq_well_iff ..).mpr ⟨hf, by rw [hbefore, List.append_nil]⟩⟩
  | cons w ws ih =>
    have hlen : (straightLine (w :: ws)).length + 1 = (straightLine ws).length + 1 + 2 := rfl
    rw [hlen, followRun_request hf hq (hs.trans (straightLine_cons w ws)) rfl, List.tail_cons]
    cases hw : idealAnswer Config.flOverflow w with
    | ok r =>
      have hmapM : straightLineEnd before ((w :: ws).mapM (idealAnswer Config.flOverflow)) =
          straightLineEnd (before ++ [r]) (ws.mapM (idealAnswer Config.flOverflow)) := by
        rw [List.mapM_cons, hw]
        cases ws.mapM (idealAnswer Config.flOverflow) with
        | ok observation => exact congrArg RunEnd.well (List.append_cons before r observation)
        | error r' => rfl
      rw [hmapM]
      exact ih (s := applyAnswer (.ok r) { s with schedule := straightLine ws }) hf hq rfl
        (by simp [hbefore, Except.toOption])
    | error r =>
      have hfault : (applyAnswer (.error r) { s with schedule := straightLine ws }).fault = some r := by
        simp [applyAnswer, hf]
      have hnoReset : .reset ∉ (straightLine ws).take ((straightLine ws).length + 1) := fun hm =>
        reset_not_mem_straightLine ws (List.mem_of_mem_take hm)
      have hmapM : (w :: ws).mapM (idealAnswer Config.flOverflow) = .error r := by rw [List.mapM_cons, hw]; rfl
      rw [hmapM, followRun_of_fault _ hfault hnoReset]
      exact ⟨rfl, runEnd_faulted hfault _⟩

/-- The one end of a straight-line run. -/
theorem runEnds_straightLine (ws : List Word) {s : State} (hf : s.fault = none) (hq : s.inFlight = none) :
    runEnds { s with schedule := straightLine ws } =
      [straightLineEnd [] (ws.mapM (idealAnswer Config.flOverflow))] := by
  obtain ⟨hpast, hend⟩ := followRun_straightLine ws (s := { s with schedule := straightLine ws }) (h := ⟨[], []⟩)
    (before := []) hf hq rfl rfl
  have hstart : startHistory { s with schedule := straightLine ws } = ⟨[], []⟩ := startHistory_idle hq
  simp only [runEnds, hstart, hpast, hend, List.nil_append]

/-- Settles O44: one end, of which the observation is a part. -/
theorem runObservationIsRequestByRequest : Obligations.RunObservationIsRequestByRequest := by
  intro ws s hf hq
  rw [observeRun, runEnds_straightLine ws hf hq]
  cases ws.mapM (idealAnswer Config.flOverflow) <;> exact ⟨rfl, rfl⟩

/-- A run without a fault and with an unanswered request is incomplete (R106). -/
theorem runEnd_eq_incomplete {s : State} (hf : s.fault = none) {p : Presented} {ps : List Presented} (hp : p ∈ ps)
    (hn : p.response = none) : runEnd s ps = .incomplete := by
  cases hend : runEnd s ps with
  | incomplete => rfl
  | well observation => exact absurd hend (runEnd_ne_well_of_unanswered hp hn s observation)
  | faulted r => cases hm : ps.mapM Presented.response <;> simp [runEnd, hf, hm] at hend

/-- An early read's fault is recorded, and the turns after it change nothing (R25, R93). -/
theorem followRun_earlyRead (k : Nat) {s : State} {f : RspField} {rest : List Turn} (hf : s.fault = none)
    (hv : s.rspValid = false) (hs : s.schedule = .read f :: rest) (hne : f ≠ .valid) (hn : .reset ∉ rest.take k)
    (h : RunHistory) :
    followRun (k + 1) s h = ({ s with fault := some (.unwrittenRead f), schedule := rest.drop k }, h) := by
  have ht : currentTurn s = .read f := by rw [currentTurn, hs, List.headD_cons]
  obtain ⟨-, -, hstep⟩ := readBeforeTheFirstResponseFaults s f rest hs hf hv hne
  rw [followRun_next hstep, recordTurn_read ht, followRun_of_fault k (r := .unwrittenRead f) rfl hn]

/-- After a fault the turns up to a reset pass, and the reset ends the faulted run (R93, R94, R99). -/
theorem followRun_faultThenReset {s : State} {r : FaultRecord} (pre : List Turn) {rest : List Turn}
    (hf : s.fault = some r) (hs : s.schedule = pre ++ .reset :: rest) (hn : .reset ∉ pre) (h : RunHistory) :
    followRun (pre.length + 1) s h = ({ State.reset with schedule := rest }, ⟨h.past ++ [.faulted r], []⟩) := by
  induction pre generalizing s with
  | nil =>
    have ht : currentTurn s = .reset := by rw [currentTurn, hs]; rfl
    rw [List.length_nil, followRun_reset ht, runEnd_faulted hf, followRun_zero, applyReset, popTurn_schedule, hs]
    rfl
  | cons turn pre ih =>
    rw [List.mem_cons, not_or] at hn
    obtain ⟨hne, hpre⟩ := hn
    have ht : currentTurn s ≠ .reset := by simpa [currentTurn, hs] using Ne.symm hne
    rw [List.length_cons, followRun_halted hf ht]
    exact ih (s := popTurn s) hf (by rw [popTurn_schedule, hs]; rfl) hpre

@[simp] theorem applyAnswer_inFlight (a : Except FaultRecord (Bool × RspData)) (s : State) :
    (applyAnswer a s).inFlight = s.inFlight := by cases a <;> rfl

@[simp] theorem applyAnswer_schedule (a : Except FaultRecord (Bool × RspData)) (s : State) :
    (applyAnswer a s).schedule = s.schedule := by cases a <;> rfl

/-- With no turns to come and none in flight, a turn changes nothing, fault or not. -/
theorem followRun_settled {t : State} (hq : t.inFlight = none) (hs : t.schedule = []) (h : RunHistory) :
    followRun 1 t h = (t, h) := by
  have ht : currentTurn t = .block := by rw [currentTurn, hs]; rfl
  have hpop : popTurn t = t := by rw [popTurn, hs, List.tail_nil, ← hs]
  cases hf : t.fault with
  | none => rw [followRun_next (step_idle hf ht hq), recordTurn_idle ht hq, hpop, followRun_zero]
  | some r => rw [followRun_halted hf (by simp [ht]), hpop, followRun_zero]

/-- A lone presented request is completed by the block once the schedule is empty, as by a turn of its own (R105). -/
theorem runEnds_present {s : State} {w : Word} (hf : s.fault = none) (hq : s.inFlight = none)
    (hs : s.schedule = [.present w]) : runEnds s = runEnds { s with schedule := [.present w, .block] } := by
  have hstart : startHistory { s with schedule := [.present w, .block] } = ⟨[], []⟩ := startHistory_idle hq
  have hsame : followRun 3 { s with schedule := [.present w, .block] } ⟨[], []⟩ = followRun 2 s ⟨[], []⟩ := calc
    _ = followRun 1 (applyAnswer (idealAnswer Config.flOverflow w) { s with schedule := [] }) _ :=
      followRun_request (s := { s with schedule := [.present w, .block] }) hf hq rfl rfl 1 _
    _ = (applyAnswer (idealAnswer Config.flOverflow w) { s with schedule := [] }, _) :=
      followRun_settled (by simp [hq]) (by simp) _
    _ = followRun 2 s ⟨[], []⟩ := (followRun_request hf hq hs rfl 0 _).symm
  simp [runEnds, hs, startHistory_idle hq, hstart, hsame]

/-- Settles O46, clause by clause. -/
theorem runsEndAsTheirTurnsSay : Obligations.RunsEndAsTheirTurnsSay := by
  refine ⟨runEnd_eq_well_iff, fun k s h f rest hf hv hs hne hn => ?earlyRead,
    fun s h w rest hf hq hs hacc => ?cutOff, fun s h r pre rest hf hs hn => followRun_faultThenReset pre hf hs hn h,
    fun s w hf hq hs => ⟨?incomplete, runEnds_present hf hq hs⟩⟩
  case earlyRead =>
    rw [followRun_earlyRead k hf hv hs hne hn]
    exact ⟨rfl, runEnd_faulted rfl _⟩
  case cutOff =>
    have ht : currentTurn s = .reset := by rw [currentTurn, hs, List.headD_cons]
    obtain ⟨done, hcur, -⟩ := hacc.of_inFlight hq
    have hend : runEnd s h.current = .incomplete := runEnd_eq_incomplete hf (p := ⟨w, none⟩) (by simp [hcur]) rfl
    rw [followRun_reset ht, hend, followRun_zero, applyReset, popTurn_schedule, hs, List.tail_cons]
  case incomplete =>
    have ht : currentTurn s = .present w := by rw [currentTurn, hs, List.headD_cons]
    have haccept : step s = .next { s with inFlight := some w, schedule := [] } := by
      rw [step_present hf hs, acceptRequest, hq]
    rw [followRun_next haccept, recordTurn_present ht, startHistory_idle hq, followRun_zero]
    exact runEnd_eq_incomplete hf (p := ⟨w, none⟩) (List.mem_singleton_self _) rfl

end Sys2Proof.Machine
